-- ==== Sys2Proof/Word.lean ====
section
/-! DEFINITION. The word types of the engine (00_scope.md R9, R10): fixed-width unsigned values. -/

namespace Sys2Proof

/-- A byte of the command port, and of a wire frame as it is stored. -/
abbrev Byte := BitVec 8

/-- `Word32` of R10: DP and AP registers, AP addresses, MEM-AP byte addresses (R9). -/
abbrev Word32 := BitVec 32

/-- The 35-bit DPACC/APACC/ABORT data register of R9 and R82. -/
abbrev Word35 := BitVec 35

/-- The 4-bit JTAG instruction register of R9. -/
abbrev Word4 := BitVec 4

/-- The 3-bit acknowledge of R86. -/
abbrev Word3 := BitVec 3

/-- A written name or number of the command syntax (R99): its ASCII bytes. -/
abbrev Token := List Byte

/-- The ASCII bytes of a written word. -/
def ascii (s : String) : Token := s.toList.map fun c => BitVec.ofNat 8 c.toNat

end Sys2Proof
end

