-- ==== Sys2Proof/Config.lean ====
section
/-! DEFINITION. The parameters of a session (00_scope.md R8) and the free values of the model. -/

namespace Sys2Proof

/-- The two transports; also the two kinds of Debug Port (R22). -/
inductive Transport where
  | jtag
  | swd
  deriving DecidableEq, Repr

/-- The class of an Access Port (R8). -/
inductive ApClass where
  | memAp
  | jtagAp
  | generic
  deriving DecidableEq, Repr

/-- One Access Port of `APS` (R8). `isAxi` is read by no rule (D47). DESIGN CHOICE (log entry 1): R8 gives
`is_axi` no default and configuration CFG no value; it is false where a configuration does not set it. -/
structure ApConfig where
  name : Token
  cls : ApClass
  base : Word32
  apregAccessWait : Nat := 0
  apmemAccessWait : Nat := 0
  latency : Nat := 0
  cswReset : Word32
  isAxi : Bool := false
  deriving DecidableEq, Repr

/-- `READ_ACK_WIDTH`: 0 (acknowledge check off) or 3 (check on); R26 allows no other value. -/
inductive ReadAckWidth where
  | zero
  | three
  deriving DecidableEq, Repr

/-- `CSW_SEED_SOURCE`, OPEN in the spec (R8, D24). -/
inductive CswSeedSource where
  | resetValue
  | readData
  deriving DecidableEq, Repr

/-- The configuration of a session (R8), fixed at construction (R282, R315).
`IR_LEN` is 4 and is carried by the width of `Word4`. -/
structure Params where
  hasJtagDp : Bool
  hasSwdDp : Bool
  defaultDp : Transport
  accAccessDly : Nat := 7
  writeApDly : Nat := 8
  swdParkCycles : Nat := 10
  dpSelectReset : Option Word32 := none
  readAckWidth : ReadAckWidth := .zero
  jtagAckExpected : Word3 := 0b100#3
  cswSeedSource : CswSeedSource
  jtagIrOverhead : Nat
  jtagDrOverhead : Nat
  aps : List ApConfig
  deriving DecidableEq, Repr

/-- `HAS_JTAG_DP` or `HAS_SWD_DP` (R22: "Only a configured kind may be active"). -/
def Params.has (c : Params) : Transport → Bool
  | .jtag => c.hasJtagDp
  | .swd => c.hasSwdDp

/-- `DEFAULT_DP` as R8 gives it: JTAG if it is configured, else SWD (D37). -/
def defaultTransport (hasJtag : Bool) : Transport := if hasJtag then .jtag else .swd

/-- A configuration R8 admits: every AP base is aligned to its 256-byte window (D31), and the
default Debug Port is a configured one wherever one is configured. -/
def Params.wf (c : Params) : Bool :=
  c.aps.all (fun ap => ap.base.extractLsb' 0 8 == 0#8) &&
    (c.has c.defaultDp || !(c.hasJtagDp || c.hasSwdDp))

/-- The AP0 of configuration CFG (95_test_vectors.md section 0). -/
def standardAp : ApConfig :=
  { name := ascii "AP0", cls := .memAp, base := 0#32, cswReset := 0x23000052#32 }

/-- Configuration CFG of 95_test_vectors.md section 0: the configuration of `State.reset`.
DESIGN CHOICE, unsafe (log entry 1): R8 makes the configuration an argument of the model, so every
statement quantifies over it and none rests on this one. -/
def Params.standard : Params :=
  { hasJtagDp := true, hasSwdDp := true, defaultDp := defaultTransport true,
    cswSeedSource := .resetValue, jtagIrOverhead := 0, jtagDrOverhead := 0, aps := [standardAp] }

/-- FREE VALUE, safe (log entry 2): the bits a capturing event returns when the transport's list of
captures is empty. R41: "Every bit a capturing event returns is a draw: the engine places no
constraint on it". Indexed by the number of free captures already drawn; no proof can see a value. -/
opaque Config.freeCapture : Nat → Word35

end Sys2Proof
end

