-- ==== Sys2Proof/Syntax.lean ====
section
/-! DEFINITION. The instructions: one constructor per row of spec/opcode_table.json, the operand
records of 30_encoding.md R100, and the stored form of an instruction on its port. -/

namespace Sys2Proof

/-- The seven DP register identities (R15, R100). -/
inductive DpName where
  | idcode
  | abort
  | ctrlStat
  | select
  | rdbuff
  | wcr
  | resend
  deriving DecidableEq, Repr

/-- `DpRef` of R100: a register name, a raw DP address, or any other name. -/
inductive DpRef where
  | name (n : DpName)
  | addr (d : Word32)
  | other (s : Token)
  deriving DecidableEq, Repr

/-- `ApRef` of R100: "the name or index of an entry of APS, or a name that matches none". -/
inductive ApRef where
  | index (i : Nat)
  | name (s : Token)
  deriving DecidableEq, Repr

/-- `ReadOpts` of R100, with the defaults of R12, R13 and R124. -/
structure ReadOpts where
  attempts : Nat := 1
  exp : Option Word32 := none
  mask : Word32 := 0xFFFFFFFF#32
  deriving DecidableEq, Repr

/-- `WriteOpts` of R100. -/
structure WriteOpts where
  attempts : Nat := 1
  deriving DecidableEq, Repr

/-- `WROpts` of R100; `mask` is called `r_mask` by `mem_write_read` (R250). -/
structure WROpts where
  wAttempts : Nat := 1
  rAttempts : Nat := 1
  exp : Option Word32 := none
  mask : Word32 := 0xFFFFFFFF#32
  deriving DecidableEq, Repr

/-- The instructions. The first 13 are the host's commands (R100); an address operand is an `Option`
so that a command without an explicit address can be written down (R294). The others are the wire
frames of sections 1 and 2 of 30_encoding.md, each the sending (or, for the capture, the arrival) of
that one frame (log entry 7). -/
inductive Instr where
  /-- R125 to R130, R135, R140 -/
  | readDp (r : DpRef) (o : ReadOpts)
  /-- R131 to R134, R136, R140 -/
  | writeDp (r : DpRef) (v : Word32) (o : WriteOpts)
  /-- R139 -/
  | writeReadDp (r : DpRef) (v : Word32) (o : WROpts)
  /-- R163 -/
  | readAp (a : Option Word32) (o : ReadOpts)
  /-- R165 -/
  | writeAp (a : Option Word32) (v : Word32) (o : WriteOpts)
  /-- R167 -/
  | setApSelect (a : Option Word32)
  /-- R251 -/
  | memSetSize (ap : ApRef) (w : Nat)
  /-- R252 -/
  | memSetAddr (ap : ApRef) (a : Option Word32) (force : Bool)
  /-- R249 -/
  | memRead (ap : ApRef) (a : Option Word32) (w : Nat) (o : ReadOpts) (force : Bool)
  /-- R248 -/
  | memWrite (ap : ApRef) (a : Option Word32) (v : Word32) (w : Nat) (o : WriteOpts) (force : Bool)
  /-- R250 -/
  | memWriteRead (ap : ApRef) (a : Option Word32) (v : Word32) (w : Nat) (o : WROpts) (force : Bool)
  /-- R280 -/
  | setDp (k : Transport)
  /-- R281 -/
  | resetDp
  /-- R81: IR code 0b1000 -/
  | irAbort
  /-- R81: IR code 0b1010 -/
  | irDpacc
  /-- R81: IR code 0b1011 -/
  | irApacc
  /-- R81: IR code 0b1110 -/
  | irIdcode
  /-- R81: IR code 0b1111 -/
  | irBypass
  /-- R82: the 35-bit shift-in value `{data, addr2, rnw}`; `data` is 0 for a read -/
  | drAcc35 (data : Word32) (addr2 : BitVec 2) (rnw : Bool)
  /-- R84: the 35-bit capture `{data, ack}` -/
  | drAcc35Capture (data : Word32) (ack : Word3)
  /-- R83: the 32-bit IDCODE scan, shift-in value 0 -/
  | drIdcode32
  /-- R85: request 0x81 (ABORT), then R88's write data -/
  | swdDpWA00 (v : Word32)
  /-- R85: request 0xA9 (CTRL/STAT, WCR), then write data -/
  | swdDpWA01 (v : Word32)
  /-- R85: request 0xB1 (SELECT), then write data -/
  | swdDpWA10 (v : Word32)
  /-- R85: request 0x99 (no DP register), then write data -/
  | swdDpWA11 (v : Word32)
  /-- R85: request 0xA5 (IDCODE) -/
  | swdDpRA00
  /-- R85: request 0x8D (CTRL/STAT, WCR) -/
  | swdDpRA01
  /-- R85: request 0x95 (RESEND) -/
  | swdDpRA10
  /-- R85: request 0xBD (RDBUFF) -/
  | swdDpRA11
  /-- R85: request 0xA3 (AP sub-address 0b00), then write data -/
  | swdApWA00 (v : Word32)
  /-- R85: request 0x8B (AP sub-address 0b01), then write data -/
  | swdApWA01 (v : Word32)
  /-- R85: request 0x93 (AP sub-address 0b10), then write data -/
  | swdApWA10 (v : Word32)
  /-- R85: request 0xBB (AP sub-address 0b11), then write data -/
  | swdApWA11 (v : Word32)
  /-- R85: request 0x87 (AP sub-address 0b00) -/
  | swdApRA00
  /-- R85: request 0xAF (AP sub-address 0b01) -/
  | swdApRA01
  /-- R85: request 0xB7 (AP sub-address 0b10) -/
  | swdApRA10
  /-- R85: request 0x9F (AP sub-address 0b11) -/
  | swdApRA11
  deriving DecidableEq, Repr

/-- A host command (R100), as against a wire frame row of the opcode table. -/
def Instr.isCommand : Instr → Bool
  | .readDp _ _ | .writeDp _ _ _ | .writeReadDp _ _ _ | .readAp _ _ | .writeAp _ _ _
  | .setApSelect _ | .memSetSize _ _ | .memSetAddr _ _ _ | .memRead _ _ _ _ _
  | .memWrite _ _ _ _ _ _ | .memWriteRead _ _ _ _ _ _ | .setDp _ | .resetDp => true
  | .irAbort | .irDpacc | .irApacc | .irIdcode | .irBypass | .drAcc35 _ _ _
  | .drAcc35Capture _ _ | .drIdcode32 | .swdDpWA00 _ | .swdDpWA01 _ | .swdDpWA10 _
  | .swdDpWA11 _ | .swdDpRA00 | .swdDpRA01 | .swdDpRA10 | .swdDpRA11 | .swdApWA00 _
  | .swdApWA01 _ | .swdApWA10 _ | .swdApWA11 _ | .swdApRA00 | .swdApRA01 | .swdApRA10
  | .swdApRA11 => false

/-- The `format` column of opcode_table.json, the capture told from the shift-in value by its
direction. The wire does not carry the format: which scan or phase a frame belongs to does (R98). -/
inductive Format where
  | command
  | jtagIr4
  | jtagDr35
  | jtagDr35Capture
  | jtagDr32
  | swdRequest8
  deriving DecidableEq, Repr

/-- One pending item of the command port: its format and its stored bytes. -/
structure PortItem where
  format : Format
  bytes : List Byte
  deriving DecidableEq, Repr

/-- Why a port item is no instruction. -/
inductive DecodeError where
  /-- the first word of a line is none of the 13 operation names (R99) -/
  | unknownMnemonic
  /-- a line has fewer operands than its syntax asks (R99) -/
  | missingOperand
  /-- a line has more operands than its syntax admits (R99) -/
  | extraOperand
  /-- a numeric operand is not a number as R10 writes them -/
  | badNumber
  /-- a 32-bit operand is 2^32 or more (R99) -/
  | numberTooWide
  /-- a name operand is empty or holds a character that cannot stand in a name -/
  | badName
  /-- an optional operand is none of those the command takes (R99) -/
  | unknownOption
  /-- an optional operand is given twice -/
  | duplicateOption
  /-- the operand of `set_dp` is neither `jtag` nor `swd` (R99) -/
  | badTransport
  /-- a stored frame has not the number of bytes of its format -/
  | badLength
  /-- an IR code other than the five of R81 (R95) -/
  | badIrCode
  /-- a bit above the frame's width, of the IDCODE shift-in value (R83), or of the data of a 35-bit
  shift-in value that reads (R82, R183), is set -/
  | reservedBits
  /-- a byte that is none of the 16 SWD requests of R85 -/
  | badRequest
  deriving DecidableEq, Repr

end Sys2Proof
end

