-- ==== Sys2Proof/Machine/State.lean ====
section
/-! DEFINITION. The engine's state record (10_state.md R20), its transport events (R40) and responses
(R33), the reasons a step can stop, and reset (70_reset_and_hazards.md R330). -/

namespace Sys2Proof.Machine

/-- A compare descriptor `(exp, mask)` of R12: a pair of equal-width values. -/
structure Cmp (n : Nat) where
  exp : BitVec n
  mask : BitVec n
  deriving DecidableEq, Repr

/-- The transport events of R40, one constructor per primitive and length the engine uses. -/
inductive TransportEvent where
  /-- `IrScan(4, v)` -/
  | irScan (v : Word4)
  /-- `DrScan(35, tdi, cmp)` -/
  | drScan35 (tdi : Word35) (cmp : Cmp 35)
  /-- `DrScan(32, tdi, cmp)` -/
  | drScan32 (tdi : Word32) (cmp : Cmp 32)
  /-- `Idle(n)` -/
  | idle (n : Nat)
  /-- `SwdSend(8, v)` -/
  | swdSend8 (v : BitVec 8)
  /-- `SwdSend(32, v)` -/
  | swdSend32 (v : Word32)
  /-- `SwdSend(1, v)` -/
  | swdSend1 (v : BitVec 1)
  /-- `SwdGet(3, cmp)` -/
  | swdGet3 (cmp : Cmp 3)
  /-- `SwdGet(32, cmp)` -/
  | swdGet32 (cmp : Cmp 32)
  /-- `SwdGet(1, cmp)` -/
  | swdGet1 (cmp : Cmp 1)
  /-- `SwdTrn` -/
  | swdTrn
  /-- `SwdPark(n)` -/
  | swdPark (n : Nat)
  deriving DecidableEq, Repr

/-- The non-fatal codes of R290. -/
inductive SkipCode where
  | writeToReadOnly
  | readOfWriteOnly
  | unknownRegister
  deriving DecidableEq, Repr

/-- The fatal codes of R290. -/
inductive FatalCode where
  | protocolMisuse
  | missingContext
  | apOwnership
  | badOption
  deriving DecidableEq, Repr

/-- `Status` of R33. -/
inductive Status where
  | ok
  | skip (c : SkipCode)
  | fatal (c : FatalCode)
  | refused
  deriving DecidableEq, Repr

/-- `Response` of R33; `matched` is its field `match`. -/
structure Response where
  status : Status
  data : Option Word32
  matched : Bool
  deriving DecidableEq, Repr

/-- `DpState` of R20. -/
structure DpState where
  /-- R23: the SELECT cache -/
  currentSelect : Option Word32
  /-- R24: the IR cache (of the JTAG Debug Port; the SWD one is read by no rule) -/
  ir : Option Word4
  /-- R25 -/
  orunDetect : Bool
  deriving DecidableEq, Repr

/-- `MemApState` of R20. -/
structure MemApState where
  /-- R27: the CSW cache; 0 is the sentinel -/
  currentCsw : Word32
  /-- R28: the TAR cache -/
  currentTar : Option Word32
  deriving DecidableEq, Repr

/-- The state of the engine (R20) with its ports. `cfg` is the configuration (R8, R315; log entry 1).
`mem` has one entry per entry of `cfg.aps`, in order; only those of MemAPs are ever read or written
(log entry 15). `dpJtag` and `dpSwd` are both held whichever kinds are configured (log entry 27). `port`, `captures` and `draws` are the model's own: the host's pending commands (R310),
the transport's pending captured bits (R312) and the number of free captures drawn (R41). -/
structure State where
  cfg : Params
  pc : Nat
  active : Transport
  dpJtag : DpState
  dpSwd : DpState
  mem : List MemApState
  fatal : Option FatalCode
  lastAck : Option Word3
  trace : List TransportEvent
  responses : List Response
  port : List PortItem
  captures : List Word35
  draws : Nat
  deriving DecidableEq, Repr

/-- The faults of the machine: none. R303 and R298 make every error a response and a next state, and
R301 and R313 let no command stop part-way, so no step of this model ends in a fault. -/
inductive Fault where
  deriving DecidableEq, Repr

/-- The reasons the model refuses a step. -/
inductive Refusal where
  /-- Raised by `exec` for an instruction without a meaning. Safe. No arm uses it. -/
  | notModelled (mnemonic : String)
  /-- Raised by `step` when the next port item holds no instruction (log entry 23). Safe: R310 lets the
  host put only commands on the port, so such a run is no run of the engine. -/
  | undecodable (why : DecodeError)
  /-- Raised by a wire frame instruction while the other transport is active (log entry 11): R40, "JTAG
  events occur only while `active = JTAG` and SWD events only while `active = SWD`". Safe. -/
  | frameOffTransport (k : Transport)
  deriving DecidableEq, Repr

/-- The Debug Port caches after reset (R45, R330). -/
def DpState.reset (c : Params) : DpState :=
  { currentSelect := c.dpSelectReset, ir := none, orunDetect := false }

/-- The MEM-AP caches after reset: both sentinels (R27, R28, R45). -/
def MemApState.reset : MemApState := { currentCsw := 0#32, currentTar := none }

/-- Reset (R330) under a configuration: every field at the value of R45; the model's own ports empty.
DESIGN CHOICE (log entry 27): R20 has one `DpState` per configured Debug Port and R330 resets those; the
model holds both records always and resets both alike. -/
def State.resetWith (c : Params) : State :=
  { cfg := c
    pc := 0
    active := c.defaultDp
    dpJtag := DpState.reset c
    dpSwd := DpState.reset c
    mem := c.aps.map fun _ => MemApState.reset
    fatal := if c.hasJtagDp || c.hasSwdDp then none else some .protocolMisuse
    lastAck := none
    trace := []
    responses := []
    port := []
    captures := []
    draws := 0 }

/-- The machine right after reset, under configuration CFG of 95_test_vectors.md (log entry 1). -/
def State.reset : State := State.resetWith Params.standard

end Sys2Proof.Machine
end

