-- ==== Sys2Proof/Machine/Flags.lean ====
section
/-! DEFINITION. What the engine computes instead of flags: it has no condition flags (10_state.md R31).
Parities (30_encoding.md R90), the compare outcome (00_scope.md R12), the widening of a compare
descriptor (R91), and the status of a composition (R139, R250). -/

namespace Sys2Proof.Machine

/-- `NoCmp` of R12: `(0, 0)`. -/
def noCmp (n : Nat) : Cmp n := ⟨0#n, 0#n⟩

/-- `Match(c, cmp) = ((c ^ exp) & mask) = 0` (R12). -/
def matchCmp {n : Nat} (c : BitVec n) (cmp : Cmp n) : Bool := (c ^^^ cmp.exp) &&& cmp.mask == 0#n

/-- The exclusive or of the lowest `k` bits of a value. -/
def xorBits {n : Nat} (v : BitVec n) : Nat → Bool
  | 0 => false
  | k + 1 => xorBits v k ^^ v.getLsbD k

/-- `XorFold(v)` (R10, R90, R217): the exclusive or of all bits, as the data parity bit. -/
def xorFold {n : Nat} (v : BitVec n) : BitVec 1 := BitVec.ofBool (xorBits v n)

/-- The request parity of R90 and R212: `APnDP ^ RnW ^ A[2] ^ A[3]`; `a` is the sub-address. -/
def requestParity (apndp rnw : Bool) (a : BitVec 2) : Bool :=
  apndp ^^ rnw ^^ a.getLsbD 0 ^^ a.getLsbD 1

/-- The 32-bit compare descriptor on the 35-bit scan (R91, R189, R190). `NoCmp` stays `NoCmp`; whether
a descriptor is `NoCmp` is asked of its value (log entry 20). -/
def widenCmp (cfg : Params) (cmp : Cmp 32) : Cmp 35 :=
  let e := cmp.exp.setWidth 35 <<< 3
  let m := cmp.mask.setWidth 35 <<< 3
  match cfg.readAckWidth with
  | .zero => ⟨e, m⟩
  | .three =>
    if cmp = noCmp 32 then noCmp 35
    else ⟨e ||| cfg.jtagAckExpected.setWidth 35, m ||| 0b111#35⟩

/-- The compare descriptor of a read's options (R124): `NoCmp` without an expected value. -/
def readCmp (o : ReadOpts) : Cmp 32 :=
  match o.exp with
  | some e => ⟨e, o.mask⟩
  | none => noCmp 32

/-- The value `CTRL/STAT` writes latch into `orun_detect`: bit 0 (R25, R133). -/
def orunBit (v : Word32) : Bool := v.getLsbD 0

/-- The response of a command that completed a read (R33). -/
def okRead (data : Word32) (matched : Bool) : Response := ⟨.ok, some data, matched⟩

/-- The response of a command that completed without a read: no data, `match` true (R33). -/
def okDone : Response := ⟨.ok, none, true⟩

/-- A response without a read and with a status other than OK (R33). -/
def failed (s : Status) : Response := ⟨s, none, true⟩

/-- The response of a composition (R139, R250): the write part's status unless it is OK, else the read
part's; data and compare outcome of the read part. -/
def composeResponse (rw rr : Response) : Response :=
  ⟨if rw.status ≠ .ok then rw.status else rr.status, rr.data, rr.matched⟩

end Sys2Proof.Machine
end

