-- ==== Sys2Proof/Machine/Operands.lean ====
section
/-! DEFINITION. What the operands of the commands mean: the DP register map and its access table
(40_dp_register_engine.md R121, R122; 30_encoding.md R92), AP addresses (R61, R63, R87), AP references
(R240), widths and byte lanes (R242, R244, R245), and the values put on the wire (R81, R82, R85). -/

namespace Sys2Proof.Machine

/-! ### Wire values -/

/-- The instruction classes of R182, and BYPASS (R191). -/
inductive IrCode where
  | abort
  | dpacc
  | apacc
  | idcode
  | bypass
  deriving DecidableEq, Repr

/-- `code(c)` of R81. -/
def irValue : IrCode → Word4
  | .abort => 0b1000#4
  | .dpacc => 0b1010#4
  | .apacc => 0b1011#4
  | .idcode => 0b1110#4
  | .bypass => 0b1111#4

/-- `tdi = (data << 3) | (addr2 << 1) | rnw` over 35 bits (R82, R183). -/
def drValue (data : Word32) (addr2 : BitVec 2) (rnw : Bool) : Word35 :=
  data.setWidth 35 <<< 3 ||| addr2.setWidth 35 <<< 1 ||| (BitVec.ofBool rnw).setWidth 35

/-- The read data of a 35-bit capture: bits [34:3] (R84, R184). -/
def captureData (c : Word35) : Word32 := c.extractLsb' 3 32

/-- The acknowledge of a 35-bit capture: bits [2:0] (R84, R184). -/
def captureAck (c : Word35) : Word3 := c.extractLsb' 0 3

/-- A bit of the SWD request byte at its clock position. -/
def requestBit (b : Bool) (i : Nat) : BitVec 8 := (BitVec.ofBool b).setWidth 8 <<< i

/-- `Req(apndp, rnw, a)` of R211 (R85): start, APnDP, RnW, A[2], A[3], parity, stop 0, park 1. -/
def swdRequest (apndp rnw : Bool) (a : BitVec 2) : BitVec 8 :=
  requestBit true 0 ||| requestBit apndp 1 ||| requestBit rnw 2 ||| requestBit (a.getLsbD 0) 3 |||
    requestBit (a.getLsbD 1) 4 ||| requestBit (requestParity apndp rnw a) 5 ||| requestBit false 6 |||
    requestBit true 7

/-! ### DP registers -/

/-- Whether the transport has the register at all (R121): WCR and RESEND are SWD-only. -/
def dpKnown (k : Transport) : DpName → Bool
  | .wcr | .resend => k == .swd
  | _ => true

/-- The readable registers of R121, among those the transport has. -/
def dpReadable (k : Transport) : DpName → Bool
  | .idcode | .ctrlStat | .rdbuff | .wcr | .resend => true
  | .select => k == .jtag
  | .abort => false

/-- The writable registers of R121, among those the transport has. -/
def dpWritable : DpName → Bool
  | .abort | .ctrlStat | .select | .wcr => true
  | .idcode | .rdbuff | .resend => false

/-- The register a raw DP address reaches in a read (R122). -/
def dpReadAddr (k : Transport) (d : Word32) : Option DpName :=
  match d.toNat with
  | 0x0 => some .idcode
  | 0x4 => some .ctrlStat
  | 0x8 => some (if k = .jtag then .select else .resend)
  | 0xC => some .rdbuff
  | _ => none

/-- The register a raw DP address reaches in a write (R122). -/
def dpWriteAddr (d : Word32) : Option DpName :=
  match d.toNat with
  | 0x0 => some .abort
  | 0x4 => some .ctrlStat
  | 0x8 => some .select
  | 0xC => some .rdbuff
  | _ => none

/-- The register a `DpRef` resolves to, or none where it is unknown (R122). -/
def resolveDp (k : Transport) (read : Bool) : DpRef → Option DpName
  | .name n => if dpKnown k n then some n else none
  | .addr d => if read then dpReadAddr k d else dpWriteAddr d
  | .other _ => none

/-- The sub-address of a DP register: DP address bits [3:2] (R89, R92). -/
def dpAddr2 : DpName → BitVec 2
  | .idcode | .abort => 0b00#2
  | .ctrlStat | .wcr => 0b01#2
  | .select | .resend => 0b10#2
  | .rdbuff => 0b11#2

/-! ### AP addresses -/

/-- `SelValue(A) = A & 0xFF0000F0` (R87, R160). -/
def selValue (a : Word32) : Word32 := a &&& 0xFF0000F0#32

/-- `SelBank(s, b) = (s & 0xFF0000F0) | b` (R87, R138). -/
def selBank (s b : Word32) : Word32 := s &&& 0xFF0000F0#32 ||| b

/-- The cache-comparison key of R161 (R87, R222). -/
def selKey : Transport → Word32
  | .jtag => 0xFF0000F0#32
  | .swd => 0xFF0000F1#32

/-- The sub-address of an AP address: `A[3:2]` (R61, R89). -/
def apAddr2 (a : Word32) : BitVec 2 := a.extractLsb' 2 2

/-- The offset of an AP address within its window: `A[7:0]` (R93). -/
def apOffset (a : Word32) : BitVec 8 := a.extractLsb' 0 8

/-- The registers that reach memory: DRW and BD0 to BD3 (R93, R168, R169). -/
def memOffset (off : BitVec 8) : Bool :=
  off == 0x0C#8 || off == 0x10#8 || off == 0x14#8 || off == 0x18#8 || off == 0x1C#8

/-- The first entry of a list that satisfies a test, with its index. -/
def findFrom {α : Type} (p : α → Bool) : Nat → List α → Option (Nat × α)
  | _, [] => none
  | i, x :: xs => if p x then some (i, x) else findFrom p (i + 1) xs

/-- The owner AP of an AP address (R63): the first configured AP with `base[31:8] = A[31:8]` (R282). -/
def ownerOf (cfg : Params) (a : Word32) : Option (Nat × ApConfig) :=
  findFrom (fun ap => ap.base.extractLsb' 8 24 == a.extractLsb' 8 24) 0 cfg.aps

/-- `ApWait(A)` of R168. -/
def apWait (cfg : Params) (a : Word32) : Nat :=
  match ownerOf cfg a with
  | none => 0
  | some (_, ap) =>
    ap.apregAccessWait + (if ap.cls = .memAp ∧ memOffset (apOffset a) = true then ap.apmemAccessWait else 0)

/-- The entry of `APS` an AP reference names, by index or by name, the first entry with a name (R282). -/
def findAp (cfg : Params) : ApRef → Option (Nat × ApConfig)
  | .index i => (cfg.aps[i]?).map fun ap => (i, ap)
  | .name s => findFrom (fun ap => ap.name == s) 0 cfg.aps

/-- `MemApOf(ap)` of R240: none where the entry is absent or its class is not MemAP. -/
def memApOf (cfg : Params) (r : ApRef) : Option (Nat × ApConfig) :=
  match findAp cfg r with
  | some (i, ap) => if ap.cls = .memAp then some (i, ap) else none
  | none => none

/-- `CSW_A(i) = B + 0x00` (R240). -/
def cswAddr (ap : ApConfig) : Word32 := ap.base + 0x00#32

/-- `TAR_A(i) = B + 0x04` (R240). -/
def tarAddr (ap : ApConfig) : Word32 := ap.base + 0x04#32

/-- `DRW_A(i) = B + 0x0C` (R240). -/
def drwAddr (ap : ApConfig) : Word32 := ap.base + 0x0C#32

/-! ### Widths, lanes and the TAR advance -/

/-- The access widths of R67. -/
inductive Width where
  | w8
  | w16
  | w32
  deriving DecidableEq, Repr

/-- `NormWidth(w)` of R242: any width but 8, 16 and 32 is 32. -/
def normWidth (w : Nat) : Width := if w = 8 then .w8 else if w = 16 then .w16 else .w32

/-- `SizeEnc` of R242. -/
def sizeEnc : Width → BitVec 3
  | .w8 => 0#3
  | .w16 => 1#3
  | .w32 => 2#3

/-- `WMask` of R242. -/
def wMask : Width → Word32
  | .w8 => 0xFF#32
  | .w16 => 0xFFFF#32
  | .w32 => 0xFFFFFFFF#32

/-- The bytes of a width: `w / 8` (R246). -/
def widthBytes : Width → Word32
  | .w8 => 1#32
  | .w16 => 2#32
  | .w32 => 4#32

/-- The lane shift `8 * (a mod 4)` (R64, R244). -/
def laneShift (a : Word32) : Nat := 8 * (a.toNat % 4)

/-- `GetWData(w, a, v)` of R244. -/
def getWData (w : Width) (a v : Word32) : Word32 :=
  match w with
  | .w32 => v
  | _ => (v &&& wMask w) <<< laneShift a

/-- `GetRData(w, a, d)` of R245. -/
def getRData (w : Width) (a d : Word32) : Word32 :=
  match w with
  | .w32 => d
  | _ => (d >>> laneShift a) &&& wMask w

/-- `LaneCmp(w, a, o)` of R255. -/
def laneCmp (w : Width) (a : Word32) (o : ReadOpts) : Cmp 32 :=
  match o.exp with
  | some e => ⟨getWData w a e, getWData w a o.mask⟩
  | none => noCmp 32

/-- `CSW[2:0]`, SIZE (R94). -/
def cswSize (csw : Word32) : BitVec 3 := csw.extractLsb' 0 3

/-- `CSW[5:4]`, ADDRINC (R94). -/
def cswAddrInc (csw : Word32) : BitVec 2 := csw.extractLsb' 4 2

/-- A CSW value with its SIZE replaced: `(csw & ~0x7) | enc` (R241). -/
def withSize (csw : Word32) (enc : BitVec 3) : Word32 := csw &&& ~~~0x7#32 ||| enc.setWidth 32

/-- `Crosses1K(t, t')` of R247. -/
def crosses1K (t t' : Word32) : Bool := t'.extractLsb' 10 22 != t.extractLsb' 10 22

/-- `Advance` of R246: the TAR cache after an increment that is on. -/
def advanceTar (t inc : Word32) : Option Word32 :=
  let t' := t + inc
  if crosses1K t t' then none else some t'

/-- The TAR cache after one DRW access, from the CSW and TAR caches (R246). -/
def nextTar (csw : Word32) (tar : Option Word32) (w : Width) : Option Word32 :=
  match tar with
  | none => none
  | some t =>
    match (cswAddrInc csw).toNat with
    | 0 => some t
    | 1 => advanceTar t (widthBytes w)
    | 2 => advanceTar t 4#32
    | _ => none

end Sys2Proof.Machine
end

