-- ==== Sys2Proof/Machine/Ops.lean ====
section
/-! DEFINITION. The named operations over the state: the Debug Port and MEM-AP caches, transport events
and captures (00_scope.md R11), how a command ends (60_exceptions.md R297 to R299), admission (R292),
and the turn of one command or one frame. Errors are this machine's exceptions: they are taken by
`skipWith`, `raiseFatal` and `refuse`; there is no return from one (R304), only reset. -/

namespace Sys2Proof.Machine

/-! ### The caches -/

/-- `s.dp[k]`. -/
def State.dp (s : State) : Transport → DpState
  | .jtag => s.dpJtag
  | .swd => s.dpSwd

/-- `s.dp[k] <- d`. -/
def State.setDp (s : State) (k : Transport) (d : DpState) : State :=
  match k with
  | .jtag => { s with dpJtag := d }
  | .swd => { s with dpSwd := d }

/-- `s.dp[k].current_select <- v`. -/
def State.setSelect (s : State) (k : Transport) (v : Option Word32) : State :=
  s.setDp k { s.dp k with currentSelect := v }

/-- `s.dp[JTAG].ir <- v`. -/
def State.setIr (s : State) (v : Option Word4) : State := { s with dpJtag := { s.dpJtag with ir := v } }

/-- `s.dp[k].orun_detect <- b`. -/
def State.setOrun (s : State) (k : Transport) (b : Bool) : State :=
  s.setDp k { s.dp k with orunDetect := b }

/-- `s.last_ack <- some a`. -/
def State.setAck (s : State) (a : Word3) : State := { s with lastAck := some a }

/-- `s.mem[i]`; outside the list, the caches of reset (log entry 15). -/
def State.memAt (s : State) (i : Nat) : MemApState := (s.mem[i]?).getD MemApState.reset

/-- `s.mem[i] <- m`. -/
def State.setMem (s : State) (i : Nat) (m : MemApState) : State := { s with mem := s.mem.set i m }

/-- `s.mem[i].current_csw <- v`. -/
def State.setCsw (s : State) (i : Nat) (v : Word32) : State :=
  s.setMem i { s.memAt i with currentCsw := v }

/-- `s.mem[i].current_tar <- v`. -/
def State.setTar (s : State) (i : Nat) (v : Option Word32) : State :=
  s.setMem i { s.memAt i with currentTar := v }

/-! ### Transport events -/

/-- `emit E` (R11): appends the event to the trace. -/
def State.emit (s : State) (e : TransportEvent) : State := { s with trace := s.trace ++ [e] }

/-- The `k`-th capture from here on (R41): the transport's next bits, and where it has none left a free
value (log entry 2). -/
def State.captureAt (s : State) (k : Nat) : Word35 :=
  match s.captures[k]? with
  | some c => c
  | none => Config.freeCapture (s.draws + (k - s.captures.length))

/-- One capture taken from the transport. -/
def State.drop1 (s : State) : State :=
  match s.captures with
  | _ :: cs => { s with captures := cs }
  | [] => { s with draws := s.draws + 1 }

/-- `c <- emit E` of a capturing event (R11): the state after it, and 35 bits of which an event of a
narrower capture uses the lowest (log entry 17). -/
def State.emitGet (s : State) (e : TransportEvent) : State × Word35 :=
  ((s.emit e).drop1, s.captureAt 0)

/-- `cycle(n)` (R11): `Idle(n)`, or nothing for `n = 0`. -/
def State.cycle (s : State) (n : Nat) : State := if n = 0 then s else s.emit (.idle n)

/-- `repeat n times: c <- emit E`, with the capture of the last (R185). For `n = 0`, which admission
excludes (R296), the capture is the one given (log entry 18). -/
def emitRepeat (e : TransportEvent) : Nat → Word35 → State → State × Word35
  | 0, c, s => (s, c)
  | n + 1, _, s => emitRepeat e n (s.emitGet e).2 (s.emitGet e).1

/-! ### How a command ends -/

/-- `skip(code)` (R297): no event, no state changed. -/
def skipWith (c : SkipCode) (s : State) : State × Response := (s, failed (.skip c))

/-- `raise Fatal(code)` (R298): no event; the sticky fatal state is set. -/
def raiseFatal (c : FatalCode) (s : State) : State × Response :=
  ({ s with fatal := some c }, failed (.fatal c))

/-- REFUSED (R299). -/
def refuse (s : State) : State × Response := (s, failed .refused)

/-- Admission (R292), then the body: the sticky fatal state first, then the attempt counts (R300). -/
def checkAdmission (counts : List Nat) (body : State → State × Response) (s : State) : State × Response :=
  if s.fatal.isSome then refuse s
  else if counts.contains 0 then raiseFatal .badOption s
  else body s

/-- The end of a command, with its response delivered (R311) and `pc <- pc + 1` (R21). -/
def finish (r : State × Response) : State :=
  { r.1 with pc := r.1.pc + 1, responses := r.1.responses ++ [r.2] }

/-- One command, as a step. -/
def command (body : State → State × Response) (s : State) : Host.Outcome State Fault Refusal :=
  .next (finish (body s))

/-- One wire frame of transport `k`, as a step (log entry 7): not a command, so neither counted by `pc`
(R21) nor answered (R311). In the fatal state nothing is emitted (R299); a frame of the transport that
is not active is refused by name (R40, log entry 11). -/
def wireFrame (k : Transport) (body : State → State) (s : State) : Host.Outcome State Fault Refusal :=
  if s.fatal.isSome then .next s
  else if s.active = k then .next (body s)
  else .refused (.frameOffTransport k)

end Sys2Proof.Machine
end

