-- ==== Sys2Proof/Machine/Framing.lean ====
section
/-! DEFINITION. The two framing strategies: JTAG (42_jtag_framing.md) and SWD (43_swd_framing.md). -/

namespace Sys2Proof.Machine

/-- What an access returns to its caller: the read data, and the compare outcome of its last attempt. -/
structure ReadResult where
  data : Word32
  matched : Bool
  deriving DecidableEq, Repr

/-! ### JTAG -/

/-- `JtagSetIR(c)` (R181): the IR is scanned only when the cache does not hold the code. -/
def jtagSetIr (c : IrCode) (s : State) : State :=
  if s.dpJtag.ir = some (irValue c) then s else (s.emit (.irScan (irValue c))).setIr (some (irValue c))

/-- `JtagAccess(ir, addr2, rnw, data, n, cmp)` (R187): IR, attempts, settle (R180, R185, R186); the
acknowledge is recorded where it is compared (R30, R190). -/
def jtagAccess (ir : IrCode) (addr2 : BitVec 2) (rnw : Bool) (data : Word32) (n : Nat) (cmp : Cmp 32)
    (s : State) : State × ReadResult :=
  let cmp35 := widenCmp s.cfg cmp
  let r := emitRepeat (.drScan35 (drValue data addr2 rnw) cmp35) n 0#35 (jtagSetIr ir s)
  let s' := r.1.cycle s.cfg.accAccessDly
  let acked := if s.cfg.readAckWidth = .three ∧ cmp ≠ noCmp 32 then s'.setAck (captureAck r.2) else s'
  (acked, ⟨captureData r.2, matchCmp r.2 cmp35⟩)

/-- The IDCODE scan (R125, R188): a 32-bit DR with shift-in value 0, the compare not widened. -/
def jtagIdcode (n : Nat) (cmp : Cmp 32) (s : State) : State × ReadResult :=
  let r := emitRepeat (.drScan32 0#32 cmp) n 0#35 (jtagSetIr .idcode s)
  (r.1.cycle s.cfg.accAccessDly, ⟨r.2.setWidth 32, matchCmp (r.2.setWidth 32) cmp⟩)

/-! ### SWD -/

/-- Request, turnaround and acknowledge (R211, R213). -/
def swdHeader (apndp rnw : Bool) (a : BitVec 2) (s : State) : State :=
  let r := ((s.emit (.swdSend8 (swdRequest apndp rnw a))).emit .swdTrn).emitGet (.swdGet3 (noCmp 3))
  r.1.setAck (r.2.setWidth 3)

/-- The read data phase (R214): data, parity captured and not checked, turnaround. -/
def swdReadData (cmp : Cmp 32) (s : State) : State × Word32 :=
  let r := s.emitGet (.swdGet32 cmp)
  let p := r.1.emitGet (.swdGet1 (noCmp 1))
  (p.1.emit .swdTrn, r.2.setWidth 32)

/-- The write data phase (R216): turnaround, data, parity (R217). -/
def swdWriteData (v : Word32) (s : State) : State :=
  ((s.emit .swdTrn).emit (.swdSend32 v)).emit (.swdSend1 (xorFold v))

/-- `SwdPacket(apndp, rnw, a, data, cmp)` (R219), park included (R218). -/
def swdPacket (apndp rnw : Bool) (a : BitVec 2) (data : Word32) (cmp : Cmp 32) (s : State) :
    State × ReadResult :=
  let h := swdHeader apndp rnw a s
  if rnw then
    let r := swdReadData cmp h
    (r.1.emit (.swdPark s.cfg.swdParkCycles), ⟨r.2, matchCmp r.2 cmp⟩)
  else
    ((swdWriteData data h).emit (.swdPark s.cfg.swdParkCycles), ⟨0#32, true⟩)

/-- The whole packet repeated, with the result of the last (R220). For `n = 0`, which admission
excludes, the result is the one given (log entry 18). -/
def swdRepeat (apndp rnw : Bool) (a : BitVec 2) (data : Word32) (cmp : Cmp 32) :
    Nat → ReadResult → State → State × ReadResult
  | 0, r, s => (s, r)
  | n + 1, _, s =>
    swdRepeat apndp rnw a data cmp n (swdPacket apndp rnw a data cmp s).2
      (swdPacket apndp rnw a data cmp s).1

/-- `SwdAccess(apndp, rnw, a, data, n, cmp)` (R220). -/
def swdAccess (apndp rnw : Bool) (a : BitVec 2) (data : Word32) (n : Nat) (cmp : Cmp 32) (s : State) :
    State × ReadResult :=
  swdRepeat apndp rnw a data cmp n ⟨0#32, true⟩ s

end Sys2Proof.Machine
end

