-- ==== Sys2Proof/Machine/DpEngine.lean ====
section
/-! DEFINITION. The DP Register Engine (40_dp_register_engine.md): `read_dp`, `write_dp`,
`write_read_dp`. -/

namespace Sys2Proof.Machine

/-- `DpAccess(d, rnw, data, n, cmp)` (R120). -/
def dpAccess (d : BitVec 2) (rnw : Bool) (data : Word32) (n : Nat) (cmp : Cmp 32) (s : State) :
    State × ReadResult :=
  match s.active with
  | .jtag => jtagAccess .dpacc d rnw data n cmp s
  | .swd => swdAccess false rnw d data n cmp s

/-- `WriteSelect(v, n)` (R131): the SELECT write, with the cache following it (R23). -/
def writeSelect (v : Word32) (n : Nat) (s : State) : State :=
  (dpAccess 0b10#2 false v n (noCmp 32) s).1.setSelect s.active (some v)

/-- `SelectDpBank(b)` (R138), on SWD. -/
def selectDpBank (b : Word32) (s : State) : State :=
  let s0 := s.dpSwd.currentSelect.getD 0#32
  let new := selBank s0 b
  if s.dpSwd.currentSelect = none ∨ new &&& selKey .swd ≠ s0 &&& selKey .swd then writeSelect new 1 s
  else s

/-- `JtagDpRead2(d, n, cmp)` (R137): the request, then the RDBUFF scan. -/
def jtagDpRead2 (d : BitVec 2) (n : Nat) (cmp : Cmp 32) (s : State) : State × ReadResult :=
  jtagAccess .dpacc 0b11#2 true 0#32 n cmp (jtagAccess .dpacc d true 0#32 1 (noCmp 32) s).1

/-- The bank of DP address 0x4 a register needs on SWD (R138): 1 for WCR. -/
def dpBankFor (r : DpName) (s : State) : State :=
  match r with
  | .ctrlStat => selectDpBank 0#32 s
  | .wcr => selectDpBank 1#32 s
  | _ => s

/-- A read of a readable DP register (R125 to R130). -/
def dpRead (r : DpName) (n : Nat) (cmp : Cmp 32) (s : State) : State × ReadResult :=
  match s.active with
  | .jtag =>
    match r with
    | .idcode => jtagIdcode n cmp s
    | .rdbuff => jtagAccess .dpacc 0b11#2 true 0#32 n cmp s
    | _ => jtagDpRead2 (dpAddr2 r) n cmp s
  | .swd => swdAccess false true (dpAddr2 r) 0#32 n cmp (dpBankFor r s)

/-- A write of CTRL/STAT (R133), with `orun_detect` latched (R25). -/
def writeCtrlStat (v : Word32) (n : Nat) (s : State) : State :=
  let s' := match s.active with
    | .jtag => s
    | .swd => selectDpBank 0#32 s
  (dpAccess 0b01#2 false v n (noCmp 32) s').1.setOrun s.active (orunBit v)

/-- A write of ABORT (R132): its own IR class on JTAG. -/
def writeAbort (v : Word32) (n : Nat) (s : State) : State :=
  match s.active with
  | .jtag => (jtagAccess .abort 0b00#2 false v n (noCmp 32) s).1
  | .swd => (swdAccess false false 0b00#2 v n (noCmp 32) s).1

/-- A write of WCR (R134), on SWD. -/
def writeWcr (v : Word32) (n : Nat) (s : State) : State :=
  (swdAccess false false 0b01#2 v n (noCmp 32) (selectDpBank 1#32 s)).1

/-- A write of a writable DP register (R131 to R134). -/
def dpWrite (r : DpName) (v : Word32) (n : Nat) (s : State) : State :=
  match r with
  | .select => writeSelect v n s
  | .abort => writeAbort v n s
  | .ctrlStat => writeCtrlStat v n s
  | .wcr => writeWcr v n s
  | .idcode | .rdbuff | .resend => s

/-- `read_dp` up to its response: resolution (R122), direction (R123, R135, R140), the read. -/
def readDpBody (r : DpRef) (o : ReadOpts) (s : State) : State × Response :=
  match resolveDp s.active true r with
  | none => skipWith .unknownRegister s
  | some n =>
    if dpReadable s.active n then
      let x := dpRead n o.attempts (readCmp o) s
      (x.1, okRead x.2.data x.2.matched)
    else skipWith .readOfWriteOnly s

/-- `write_dp` up to its response: resolution, direction (R123, R136, R140), the write. -/
def writeDpBody (r : DpRef) (v : Word32) (o : WriteOpts) (s : State) : State × Response :=
  match resolveDp s.active false r with
  | none => skipWith .unknownRegister s
  | some n =>
    if dpWritable n then (dpWrite n v o.attempts s, okDone)
    else skipWith .writeToReadOnly s

/-- `read_dp`, admitted (R292). -/
def readDpPart (r : DpRef) (o : ReadOpts) : State → State × Response :=
  checkAdmission [o.attempts] (readDpBody r o)

/-- `write_dp`, admitted (R292). -/
def writeDpPart (r : DpRef) (v : Word32) (o : WriteOpts) : State → State × Response :=
  checkAdmission [o.attempts] (writeDpBody r v o)

/-- `write_read_dp` (R139): both parts run, each with its own checks. -/
def writeReadDpBody (r : DpRef) (v : Word32) (o : WROpts) (s : State) : State × Response :=
  let w := writeDpPart r v { attempts := o.wAttempts } s
  let x := readDpPart r { attempts := o.rAttempts, exp := some (o.exp.getD v), mask := o.mask } w.1
  (x.1, composeResponse w.2 x.2)

/-- `read_dp REG` (R125 to R130, R135, R140). -/
def execReadDp (r : DpRef) (o : ReadOpts) (s : State) : Host.Outcome State Fault Refusal :=
  command (readDpPart r o) s

/-- `write_dp REG, v` (R131 to R134, R136, R140). -/
def execWriteDp (r : DpRef) (v : Word32) (o : WriteOpts) (s : State) :
    Host.Outcome State Fault Refusal :=
  command (writeDpPart r v o) s

/-- `write_read_dp REG, v` (R139). The command itself is admitted on both its attempt counts (R292, log
entry 13), so that a fatal count is found before any event (R298, R301). -/
def execWriteReadDp (r : DpRef) (v : Word32) (o : WROpts) (s : State) :
    Host.Outcome State Fault Refusal :=
  command (checkAdmission [o.wAttempts, o.rAttempts] (writeReadDpBody r v o)) s

end Sys2Proof.Machine
end

