-- ==== Sys2Proof/Machine/ApEngine.lean ====
section
/-! DEFINITION. The AP Register Engine (41_ap_register_engine.md): `read_ap`, `write_ap`,
`set_ap_select`. -/

namespace Sys2Proof.Machine

/-- `SelectForAP(A)` (R161): SELECT is written when the key bits differ or the cache is unknown. -/
def selectForAp (a : Word32) (s : State) : State :=
  let key := selKey s.active
  match (s.dp s.active).currentSelect with
  | none => writeSelect (selValue a) 1 s
  | some c => if c &&& key ≠ selValue a &&& key then writeSelect (selValue a) 1 s else s

/-- `ApAccess(A, rnw, data, n, cmp)` (R162). -/
def apAccess (a : Word32) (rnw : Bool) (data : Word32) (n : Nat) (cmp : Cmp 32) (s : State) :
    State × ReadResult :=
  match s.active with
  | .jtag => jtagAccess .apacc (apAddr2 a) rnw data n cmp s
  | .swd => swdAccess true rnw (apAddr2 a) data n cmp s

/-- `RdbuffRead(n, cmp)` (R164). -/
def rdbuffRead (n : Nat) (cmp : Cmp 32) (s : State) : State × ReadResult :=
  dpAccess 0b11#2 true 0#32 n cmp s

/-- `ReadApCore(A, n, cmp)` (R163): select, junk read, wait states, RDBUFF. -/
def readApCore (a : Word32) (n : Nat) (cmp : Cmp 32) (s : State) : State × ReadResult :=
  let s1 := (apAccess a true 0#32 1 (noCmp 32) (selectForAp a s)).1
  rdbuffRead n cmp (s1.cycle (apWait s.cfg a))

/-- `WriteApCore(A, v, n)` (R165): select, write, the JTAG post-write delay (R166), wait states. -/
def writeApCore (a v : Word32) (n : Nat) (s : State) : State :=
  let s1 := (apAccess a false v n (noCmp 32) (selectForAp a s)).1
  let s2 := match s.active with
    | .jtag => s1.cycle s.cfg.writeApDly
    | .swd => s1
  s2.cycle (apWait s.cfg a)

/-- `RawCoherence(A, dir, v)` (R169); `written` is the value of a write, none for a read. -/
def rawCoherence (a : Word32) (written : Option Word32) (s : State) : State :=
  match ownerOf s.cfg a with
  | none => s
  | some (i, ap) =>
    if ap.cls = .memAp then
      if memOffset (apOffset a) then s.setTar i none
      else
        match written with
        | none => s
        | some v =>
          if apOffset a = 0x00#8 then s.setCsw i v
          else if apOffset a = 0x04#8 then s.setTar i (some v)
          else s
    else s

/-- `read_ap` up to its response (R163). -/
def readApBody (a : Option Word32) (o : ReadOpts) (s : State) : State × Response :=
  match a with
  | none => raiseFatal .missingContext s
  | some a =>
    let x := readApCore a o.attempts (readCmp o) s
    (rawCoherence a none x.1, okRead x.2.data x.2.matched)

/-- `write_ap` up to its response (R165). -/
def writeApBody (a : Option Word32) (v : Word32) (o : WriteOpts) (s : State) : State × Response :=
  match a with
  | none => raiseFatal .missingContext s
  | some a => (rawCoherence a (some v) (writeApCore a v o.attempts s), okDone)

/-- `set_ap_select` up to its response (R167). -/
def setApSelectBody (a : Option Word32) (s : State) : State × Response :=
  match a with
  | none => raiseFatal .missingContext s
  | some a => (selectForAp a s, okDone)

/-- `read_ap A` (R163). -/
def execReadAp (a : Option Word32) (o : ReadOpts) (s : State) : Host.Outcome State Fault Refusal :=
  command (checkAdmission [o.attempts] (readApBody a o)) s

/-- `write_ap A, v` (R165). -/
def execWriteAp (a : Option Word32) (v : Word32) (o : WriteOpts) (s : State) :
    Host.Outcome State Fault Refusal :=
  command (checkAdmission [o.attempts] (writeApBody a v o)) s

/-- `set_ap_select A` (R167). -/
def execSetApSelect (a : Option Word32) (s : State) : Host.Outcome State Fault Refusal :=
  command (checkAdmission [] (setApSelectBody a)) s

end Sys2Proof.Machine
end

