-- ==== Sys2Proof/Machine/Frames.lean ====
section
/-! DEFINITION. The wire frames as instructions (log entries 7 to 12 and 26): each sends one frame of
30_encoding.md R81 to R85 by the framing procedure that sends it inside commands, and leaves the
engine's caches as true of the target as R23, R25, R169 and R192 keep them. -/

namespace Sys2Proof.Machine

/-! ### What a frame sent outside a command does to the caches (log entry 8) -/

/-- After a DP write at sub-address `a`: a SELECT write is followed by the SELECT cache (R23), a
CTRL/STAT write by `orun_detect` (R25). On SWD sub-address 0b01 is CTRL/STAT in DP bank 0 only; an
unknown SELECT is taken as bank 0, as D56 composes it (log entry 24). -/
def dpWriteCoherence (a : BitVec 2) (v : Word32) (s : State) : State :=
  if a = 0b10#2 then s.setSelect s.active (some v)
  else if a = 0b01#2 then
    match s.active with
    | .jtag => s.setOrun .jtag (orunBit v)
    | .swd =>
      if (s.dpSwd.currentSelect.getD 0#32) &&& 0xF#32 = 0#32 then s.setOrun .swd (orunBit v) else s
  else s

/-- The AP address a frame at sub-address `a` reaches under a SELECT value (R61, R87). R61 transmits
neither A[23:8] nor A[1:0]. DESIGN CHOICE (log entry 8): they are taken as 0 when the owner is looked up,
so a MemAP whose base has a bit of [23:8] set is not the owner of what a lone frame reaches. -/
def frameApAddr (sel : Word32) (a : BitVec 2) : Word32 := selValue sel ||| a.setWidth 32 <<< 2

/-- After an AP access at sub-address `a`: R169 at the address SELECT gives it, where SELECT is known. -/
def apFrameCoherence (a : BitVec 2) (written : Option Word32) (s : State) : State :=
  match (s.dp s.active).currentSelect with
  | none => s
  | some sel => rawCoherence (frameApAddr sel a) written s

/-! ### JTAG frames -/

/-- An IR frame: `JtagSetIR` (R181), the one procedure that scans the IR (R192). -/
def irFrame (c : IrCode) (s : State) : State := jtagSetIr c s

/-- The class under which a lone 35-bit frame is sent. R98 gives the DR 35 bits under ABORT, DPACC and
APACC only, and has the IR set before each DR scan: the class in force where it is one of these, else
DPACC. DESIGN CHOICE of DPACC (log entry 26): the frame does not carry its class. -/
def dr35Class (ir : Option Word4) : IrCode :=
  if ir = some (irValue .abort) then .abort
  else if ir = some (irValue .apacc) then .apacc
  else .dpacc

/-- A 35-bit shift-in frame (R82): one access of R187 under its class, the data of a read 0 (R183), its
capture junk (R32); what it writes follows from the class (R81, R98). DESIGN CHOICE (log entry 7): the
frame is the access alone, with the settle delay of R186 and neither the `WRITE_AP_DLY` of R166 nor the
`ApWait` of R168, which the AP engine's commands add after it. -/
def dr35Frame (data : Word32) (addr2 : BitVec 2) (rnw : Bool) (s : State) : State :=
  let d := if rnw then 0#32 else data
  let c := dr35Class s.dpJtag.ir
  let s' := (jtagAccess c addr2 rnw d 1 (noCmp 32) s).1
  match c with
  | .dpacc => if rnw then s' else dpWriteCoherence addr2 d s'
  | .apacc => apFrameCoherence addr2 (if rnw then none else some d) s'
  | _ => s'

/-- The 32-bit IDCODE frame (R83): the IDCODE scan of R188, which sets IR IDCODE first (R98); its capture
junk. -/
def dr32Frame (s : State) : State := (jtagIdcode 1 (noCmp 32) s).1

/-- The capture frame (R84): the transport's next captured 35 bits are these (R312, log entry 10). -/
def captureFrame (data : Word32) (ack : Word3) (s : State) : State :=
  { s with captures := s.captures ++ [data ++ ack] }

/-- `IR_ABORT` (R81). -/
def execIrAbort (s : State) : Host.Outcome State Fault Refusal := wireFrame .jtag (irFrame .abort) s

/-- `IR_DPACC` (R81). -/
def execIrDpacc (s : State) : Host.Outcome State Fault Refusal := wireFrame .jtag (irFrame .dpacc) s

/-- `IR_APACC` (R81). -/
def execIrApacc (s : State) : Host.Outcome State Fault Refusal := wireFrame .jtag (irFrame .apacc) s

/-- `IR_IDCODE` (R81). -/
def execIrIdcode (s : State) : Host.Outcome State Fault Refusal := wireFrame .jtag (irFrame .idcode) s

/-- `IR_BYPASS` (R81); no command emits it (R191, log entry 9). -/
def execIrBypass (s : State) : Host.Outcome State Fault Refusal := wireFrame .jtag (irFrame .bypass) s

/-- `DR_ACC35` (R82). -/
def execDrAcc35 (data : Word32) (addr2 : BitVec 2) (rnw : Bool) (s : State) :
    Host.Outcome State Fault Refusal :=
  wireFrame .jtag (dr35Frame data addr2 rnw) s

/-- `DR_ACC35_CAPTURE` (R84). -/
def execDrAcc35Capture (data : Word32) (ack : Word3) (s : State) : Host.Outcome State Fault Refusal :=
  wireFrame .jtag (captureFrame data ack) s

/-- `DR_IDCODE32` (R83). -/
def execDrIdcode32 (s : State) : Host.Outcome State Fault Refusal := wireFrame .jtag dr32Frame s

/-! ### SWD frames -/

/-- A DP packet (R219): a read's capture is junk, a write is followed by the caches. -/
def swdDpFrame (rnw : Bool) (a : BitVec 2) (v : Word32) (s : State) : State :=
  let s' := (swdPacket false rnw a v (noCmp 32) s).1
  if rnw then s' else dpWriteCoherence a v s'

/-- An AP packet (R219), park included, followed by R169. DESIGN CHOICE (log entry 7): the frame is the
packet alone, without the `ApWait` of R168, which the AP engine's commands add after it. -/
def swdApFrame (rnw : Bool) (a : BitVec 2) (v : Word32) (s : State) : State :=
  apFrameCoherence a (if rnw then none else some v) (swdPacket true rnw a v (noCmp 32) s).1

/-- `SWD_DP_W_A00`, request 0x81: ABORT (R85). -/
def execSwdDpWA00 (v : Word32) (s : State) : Host.Outcome State Fault Refusal :=
  wireFrame .swd (swdDpFrame false 0b00#2 v) s

/-- `SWD_DP_W_A01`, request 0xA9: CTRL/STAT or WCR (R85). -/
def execSwdDpWA01 (v : Word32) (s : State) : Host.Outcome State Fault Refusal :=
  wireFrame .swd (swdDpFrame false 0b01#2 v) s

/-- `SWD_DP_W_A10`, request 0xB1: SELECT (R85). -/
def execSwdDpWA10 (v : Word32) (s : State) : Host.Outcome State Fault Refusal :=
  wireFrame .swd (swdDpFrame false 0b10#2 v) s

/-- `SWD_DP_W_A11`, request 0x99: no DP register; no command emits it (R136, log entry 9). -/
def execSwdDpWA11 (v : Word32) (s : State) : Host.Outcome State Fault Refusal :=
  wireFrame .swd (swdDpFrame false 0b11#2 v) s

/-- `SWD_DP_R_A00`, request 0xA5: IDCODE (R85). -/
def execSwdDpRA00 (s : State) : Host.Outcome State Fault Refusal :=
  wireFrame .swd (swdDpFrame true 0b00#2 0#32) s

/-- `SWD_DP_R_A01`, request 0x8D: CTRL/STAT or WCR (R85). -/
def execSwdDpRA01 (s : State) : Host.Outcome State Fault Refusal :=
  wireFrame .swd (swdDpFrame true 0b01#2 0#32) s

/-- `SWD_DP_R_A10`, request 0x95: RESEND (R85). -/
def execSwdDpRA10 (s : State) : Host.Outcome State Fault Refusal :=
  wireFrame .swd (swdDpFrame true 0b10#2 0#32) s

/-- `SWD_DP_R_A11`, request 0xBD: RDBUFF (R85). -/
def execSwdDpRA11 (s : State) : Host.Outcome State Fault Refusal :=
  wireFrame .swd (swdDpFrame true 0b11#2 0#32) s

/-- `SWD_AP_W_A00`, request 0xA3 (R85). -/
def execSwdApWA00 (v : Word32) (s : State) : Host.Outcome State Fault Refusal :=
  wireFrame .swd (swdApFrame false 0b00#2 v) s

/-- `SWD_AP_W_A01`, request 0x8B (R85). -/
def execSwdApWA01 (v : Word32) (s : State) : Host.Outcome State Fault Refusal :=
  wireFrame .swd (swdApFrame false 0b01#2 v) s

/-- `SWD_AP_W_A10`, request 0x93 (R85). -/
def execSwdApWA10 (v : Word32) (s : State) : Host.Outcome State Fault Refusal :=
  wireFrame .swd (swdApFrame false 0b10#2 v) s

/-- `SWD_AP_W_A11`, request 0xBB (R85). -/
def execSwdApWA11 (v : Word32) (s : State) : Host.Outcome State Fault Refusal :=
  wireFrame .swd (swdApFrame false 0b11#2 v) s

/-- `SWD_AP_R_A00`, request 0x87 (R85). -/
def execSwdApRA00 (s : State) : Host.Outcome State Fault Refusal :=
  wireFrame .swd (swdApFrame true 0b00#2 0#32) s

/-- `SWD_AP_R_A01`, request 0xAF (R85). -/
def execSwdApRA01 (s : State) : Host.Outcome State Fault Refusal :=
  wireFrame .swd (swdApFrame true 0b01#2 0#32) s

/-- `SWD_AP_R_A10`, request 0xB7 (R85). -/
def execSwdApRA10 (s : State) : Host.Outcome State Fault Refusal :=
  wireFrame .swd (swdApFrame true 0b10#2 0#32) s

/-- `SWD_AP_R_A11`, request 0x9F (R85). -/
def execSwdApRA11 (s : State) : Host.Outcome State Fault Refusal :=
  wireFrame .swd (swdApFrame true 0b11#2 0#32) s

end Sys2Proof.Machine
end

