-- ==== Sys2Proof/Machine/MemAp.lean ====
section
/-! DEFINITION. The MEM-AP Engine (44_mem_ap_engine.md): `mem_set_size`, `mem_set_addr`, `mem_read`,
`mem_write`, `mem_write_read`. It uses `readApCore` and `writeApCore`, never the raw commands, so
R169 does not apply to its own accesses. `i` is the index of a MemAP of `APS`, `ap` its configuration. -/

namespace Sys2Proof.Machine

/-- The seed of the CSW cache (R241): the dummy read, and by `CSW_SEED_SOURCE` its data or `csw_reset`. -/
def seedCsw (i : Nat) (ap : ApConfig) (s : State) : State :=
  if (s.memAt i).currentCsw = 0#32 then
    let x := readApCore (cswAddr ap) 1 (noCmp 32) s
    x.1.setCsw i (match s.cfg.cswSeedSource with
      | .resetValue => ap.cswReset
      | .readData => x.2.data)
  else s

/-- `SetSize(i, w)` (R241). -/
def setSize (i : Nat) (ap : ApConfig) (w : Width) (s : State) : State :=
  let s1 := seedCsw i ap s
  let csw := (s1.memAt i).currentCsw
  if cswSize csw ≠ sizeEnc w then
    (writeApCore (cswAddr ap) (withSize csw (sizeEnc w)) 1 s1).setCsw i (withSize csw (sizeEnc w))
  else s1

/-- `SetAddr(i, a, force)` (R243). -/
def setAddr (i : Nat) (ap : ApConfig) (a : Word32) (force : Bool) (s : State) : State :=
  if force = true ∨ (s.memAt i).currentTar ≠ some a then
    (writeApCore (tarAddr ap) a 1 s).setTar i (some a)
  else s

/-- `IncrementAddr(i, w)` (R246). -/
def incrementAddr (i : Nat) (w : Width) (s : State) : State :=
  s.setTar i (nextTar (s.memAt i).currentCsw (s.memAt i).currentTar w)

/-- The TAR cache after a DRW write of `n` attempts (R248, R254). -/
def afterDrwWrite (i : Nat) (w : Width) (n : Nat) (s : State) : State :=
  if 1 < n ∧ cswAddrInc (s.memAt i).currentCsw ≠ 0b00#2 then s.setTar i none else incrementAddr i w s

/-- The MEM-AP a command names, or `AP_OWNERSHIP` (R240, R295). -/
def withMemAp (r : ApRef) (body : Nat → ApConfig → State → State × Response) (s : State) :
    State × Response :=
  match memApOf s.cfg r with
  | none => raiseFatal .apOwnership s
  | some (i, ap) => body i ap s

/-- An address operand, or `MISSING_CONTEXT` (R294). -/
def withAddr (a : Option Word32) (body : Word32 → State → State × Response) (s : State) :
    State × Response :=
  match a with
  | none => raiseFatal .missingContext s
  | some a => body a s

/-- The DRW write of `mem_write` with what precedes and follows it (R248). -/
def memWriteAt (a v : Word32) (w : Width) (n : Nat) (force : Bool) (i : Nat) (ap : ApConfig)
    (s : State) : State × Response :=
  let s1 := setAddr i ap a force (setSize i ap w s)
  let s2 := afterDrwWrite i w n (writeApCore (drwAddr ap) (getWData w a v) n s1)
  (s2.cycle ap.latency, okDone)

/-- The DRW read of `mem_read` with what precedes and follows it (R249). -/
def memReadAt (a : Word32) (w : Width) (o : ReadOpts) (force : Bool) (i : Nat) (ap : ApConfig)
    (s : State) : State × Response :=
  let s1 := setAddr i ap a force (setSize i ap w s)
  let x := readApCore (drwAddr ap) o.attempts (laneCmp w a o) s1
  ((incrementAddr i w x.1).cycle ap.latency, okRead (getRData w a x.2.data) x.2.matched)

/-- `mem_write`, admitted (R292): MISSING_CONTEXT before AP_OWNERSHIP (R300). -/
def memWritePart (r : ApRef) (a : Option Word32) (v : Word32) (w : Nat) (o : WriteOpts) (force : Bool) :
    State → State × Response :=
  checkAdmission [o.attempts]
    (withAddr a fun a => withMemAp r (memWriteAt a v (normWidth w) o.attempts force))

/-- `mem_read`, admitted (R292). -/
def memReadPart (r : ApRef) (a : Option Word32) (w : Nat) (o : ReadOpts) (force : Bool) :
    State → State × Response :=
  checkAdmission [o.attempts] (withAddr a fun a => withMemAp r (memReadAt a (normWidth w) o force))

/-- `mem_write_read` (R250): both halves with the same address, width and `force`. -/
def memWriteReadBody (r : ApRef) (a : Option Word32) (v : Word32) (w : Nat) (o : WROpts) (force : Bool)
    (s : State) : State × Response :=
  let x := memWritePart r a v w { attempts := o.wAttempts } force s
  let y := memReadPart r a w
    { attempts := o.rAttempts, exp := some (o.exp.getD (v &&& o.mask)), mask := o.mask } force x.1
  (y.1, composeResponse x.2 y.2)

/-- `mem_set_size AP, W` (R251). -/
def execMemSetSize (r : ApRef) (w : Nat) (s : State) : Host.Outcome State Fault Refusal :=
  command (checkAdmission [] (withMemAp r fun i ap s => (setSize i ap (normWidth w) s, okDone))) s

/-- `mem_set_addr AP, A [, force]` (R252). -/
def execMemSetAddr (r : ApRef) (a : Option Word32) (force : Bool) (s : State) :
    Host.Outcome State Fault Refusal :=
  command (checkAdmission [] (withAddr a fun a => withMemAp r fun i ap s => (setAddr i ap a force s, okDone))) s

/-- `mem_read AP, A, W` (R249). -/
def execMemRead (r : ApRef) (a : Option Word32) (w : Nat) (o : ReadOpts) (force : Bool) (s : State) :
    Host.Outcome State Fault Refusal :=
  command (memReadPart r a w o force) s

/-- `mem_write AP, A, V, W` (R248). -/
def execMemWrite (r : ApRef) (a : Option Word32) (v : Word32) (w : Nat) (o : WriteOpts) (force : Bool)
    (s : State) : Host.Outcome State Fault Refusal :=
  command (memWritePart r a v w o force) s

/-- `mem_write_read AP, A, V, W` (R250), admitted on both its attempt counts (log entry 13). -/
def execMemWriteRead (r : ApRef) (a : Option Word32) (v : Word32) (w : Nat) (o : WROpts) (force : Bool)
    (s : State) : Host.Outcome State Fault Refusal :=
  command (checkAdmission [o.wAttempts, o.rAttempts] (memWriteReadBody r a v w o force)) s

end Sys2Proof.Machine
end

