-- ==== Sys2Proof/Machine/Session.lean ====
section
/-! DEFINITION. Session control (45_session_control.md): `set_dp`, `reset_dp`. Neither emits an event. -/

namespace Sys2Proof.Machine

/-- `set_dp k` up to its response (R280, R293). -/
def setDpBody (k : Transport) (s : State) : State × Response :=
  if s.cfg.has k then
    let s1 := ({ s with active := k } : State).setSelect k none
    (match k with
      | .jtag => s1.setIr none
      | .swd => s1, okDone)
  else raiseFatal .protocolMisuse s

/-- `reset_dp` up to its response (R281): the engine's view of the active Debug Port. -/
def resetDpBody (s : State) : State × Response :=
  let s1 := s.setSelect s.active s.cfg.dpSelectReset
  let s2 := match s.active with
    | .jtag => s1.setIr none
    | .swd => s1
  (s2.setOrun s.active false, okDone)

/-- `set_dp k` (R280). -/
def execSetDp (k : Transport) (s : State) : Host.Outcome State Fault Refusal :=
  command (checkAdmission [] (setDpBody k)) s

/-- `reset_dp` (R281). -/
def execResetDp (s : State) : Host.Outcome State Fault Refusal :=
  command (checkAdmission [] resetDpBody) s

end Sys2Proof.Machine
end

