-- ==== Sys2Proof/Machine/Dispatch.lean ====
section
/-! DEFINITION. One arm per row of spec/opcode_table.json. -/

namespace Sys2Proof.Machine

def exec (i : Instr) (s : State) : Host.Outcome State Fault Refusal :=
  match i with
  -- DP register engine
  | .readDp r o => Sys2Proof.Machine.execReadDp r o s
  | .writeDp r v o => Sys2Proof.Machine.execWriteDp r v o s
  | .writeReadDp r v o => Sys2Proof.Machine.execWriteReadDp r v o s
  -- AP register engine
  | .readAp a o => Sys2Proof.Machine.execReadAp a o s
  | .writeAp a v o => Sys2Proof.Machine.execWriteAp a v o s
  | .setApSelect a => Sys2Proof.Machine.execSetApSelect a s
  -- MEM-AP engine
  | .memSetSize ap w => Sys2Proof.Machine.execMemSetSize ap w s
  | .memSetAddr ap a force => Sys2Proof.Machine.execMemSetAddr ap a force s
  | .memRead ap a w o force => Sys2Proof.Machine.execMemRead ap a w o force s
  | .memWrite ap a v w o force => Sys2Proof.Machine.execMemWrite ap a v w o force s
  | .memWriteRead ap a v w o force => Sys2Proof.Machine.execMemWriteRead ap a v w o force s
  -- session control
  | .setDp k => Sys2Proof.Machine.execSetDp k s
  | .resetDp => Sys2Proof.Machine.execResetDp s
  -- JTAG frames
  | .irAbort => Sys2Proof.Machine.execIrAbort s
  | .irDpacc => Sys2Proof.Machine.execIrDpacc s
  | .irApacc => Sys2Proof.Machine.execIrApacc s
  | .irIdcode => Sys2Proof.Machine.execIrIdcode s
  | .irBypass => Sys2Proof.Machine.execIrBypass s
  | .drAcc35 data addr2 rnw => Sys2Proof.Machine.execDrAcc35 data addr2 rnw s
  | .drAcc35Capture data ack => Sys2Proof.Machine.execDrAcc35Capture data ack s
  | .drIdcode32 => Sys2Proof.Machine.execDrIdcode32 s
  -- SWD frames
  | .swdDpWA00 v => Sys2Proof.Machine.execSwdDpWA00 v s
  | .swdDpWA01 v => Sys2Proof.Machine.execSwdDpWA01 v s
  | .swdDpWA10 v => Sys2Proof.Machine.execSwdDpWA10 v s
  | .swdDpWA11 v => Sys2Proof.Machine.execSwdDpWA11 v s
  | .swdDpRA00 => Sys2Proof.Machine.execSwdDpRA00 s
  | .swdDpRA01 => Sys2Proof.Machine.execSwdDpRA01 s
  | .swdDpRA10 => Sys2Proof.Machine.execSwdDpRA10 s
  | .swdDpRA11 => Sys2Proof.Machine.execSwdDpRA11 s
  | .swdApWA00 v => Sys2Proof.Machine.execSwdApWA00 v s
  | .swdApWA01 v => Sys2Proof.Machine.execSwdApWA01 v s
  | .swdApWA10 v => Sys2Proof.Machine.execSwdApWA10 v s
  | .swdApWA11 v => Sys2Proof.Machine.execSwdApWA11 v s
  | .swdApRA00 => Sys2Proof.Machine.execSwdApRA00 s
  | .swdApRA01 => Sys2Proof.Machine.execSwdApRA01 s
  | .swdApRA10 => Sys2Proof.Machine.execSwdApRA10 s
  | .swdApRA11 => Sys2Proof.Machine.execSwdApRA11 s

end Sys2Proof.Machine
end

