-- ==== Sys2Proof/WellFormed.lean ====
section
/-! DEFINITION. Which instruction terms can be written down: a free-standing name must be a word of
the command syntax (R99) that is not read as something else, and a 35-bit shift-in value that reads has
data 0 (R82, R183). Every other operand is well-formed at every value of its type. -/

namespace Sys2Proof

/-- The written names of the DP registers (R99) and their symbolic forms (R15). -/
def dpNameTable : List (Token × DpName) :=
  [(ascii "IDCODE", .idcode), (ascii "ABORT", .abort), (ascii "CTRL_STAT", .ctrlStat),
   (ascii "SELECT", .select), (ascii "RDBUFF", .rdbuff), (ascii "WCR", .wcr),
   (ascii "RESEND", .resend),
   (ascii ":idcode", .idcode), (ascii ":abort", .abort), (ascii ":ctrl_stat", .ctrlStat),
   (ascii ":select", .select), (ascii ":rdbuff", .rdbuff), (ascii ":wcr", .wcr),
   (ascii ":resend", .resend)]

/-- The DP register a written name stands for. -/
def dpNameOf (t : Token) : Option DpName := dpNameTable.lookup t

/-- A character of a written word: printable ASCII but for space, comma and `=`, which the syntax
of R99 uses. -/
def wordChar (b : Byte) : Bool :=
  33 ≤ b.toNat && b.toNat ≤ 126 && b != 44#8 && b != 61#8

/-- A decimal digit. -/
def isDigit (b : Byte) : Bool := 48 ≤ b.toNat && b.toNat ≤ 57

/-- A written word that is a name: not empty, of word characters, not beginning with a digit (a
word that does is a number). -/
def validName : Token → Bool
  | [] => false
  | b :: bs => !isDigit b && (b :: bs).all wordChar

/-- A DP register reference that can be written (R99). -/
def DpRef.wf : DpRef → Bool
  | .name _ => true
  | .addr _ => true
  | .other s => validName s && (dpNameOf s).isNone

/-- An AP reference that can be written (R99). -/
def ApRef.wf : ApRef → Bool
  | .index _ => true
  | .name s => validName s

/-- An instruction that can be written: its names are, and a read shifts in data 0 (R82, R183). -/
def Instr.wf : Instr → Bool
  | .readDp r _ => r.wf
  | .writeDp r _ _ => r.wf
  | .writeReadDp r _ _ => r.wf
  | .readAp _ _ => true
  | .writeAp _ _ _ => true
  | .setApSelect _ => true
  | .memSetSize ap _ => ap.wf
  | .memSetAddr ap _ _ => ap.wf
  | .memRead ap _ _ _ _ => ap.wf
  | .memWrite ap _ _ _ _ _ => ap.wf
  | .memWriteRead ap _ _ _ _ _ => ap.wf
  | .setDp _ => true
  | .resetDp => true
  | .irAbort => true
  | .irDpacc => true
  | .irApacc => true
  | .irIdcode => true
  | .irBypass => true
  | .drAcc35 data _ rnw => !rnw || data == 0#32
  | .drAcc35Capture _ _ => true
  | .drIdcode32 => true
  | .swdDpWA00 _ => true
  | .swdDpWA01 _ => true
  | .swdDpWA10 _ => true
  | .swdDpWA11 _ => true
  | .swdDpRA00 => true
  | .swdDpRA01 => true
  | .swdDpRA10 => true
  | .swdDpRA11 => true
  | .swdApWA00 _ => true
  | .swdApWA01 _ => true
  | .swdApWA10 _ => true
  | .swdApWA11 _ => true
  | .swdApRA00 => true
  | .swdApRA01 => true
  | .swdApRA10 => true
  | .swdApRA11 => true

end Sys2Proof
end

