-- ==== Sys2Proof/Decode.lean ====
section
/-! DEFINITION. From the stored bytes of a port item to an instruction, total, rejecting by name; and
the encoder after it. Commands are read in the one-line syntax of 30_encoding.md R99 (log entries 4
and 5); wire frames are read from the bit layouts of R81 to R85 and R88, each phase least significant
bit first (R65), so byte 0 holds the bits clocked first (log entry 6). -/

namespace Sys2Proof

/-! ### Words of a command line -/

/-- The operands of a line: the text cut at its commas. -/
def splitCommas : List Byte → List Token
  | [] => [[]]
  | b :: bs =>
    match splitCommas bs with
    | [] => [[b]]
    | w :: ws => if b = 44#8 then [] :: w :: ws else (b :: w) :: ws

/-- A text without its leading spaces. -/
def dropSpaces (t : Token) : Token := t.dropWhile (· == 32#8)

/-- A text without its leading and trailing spaces. -/
def trimSpaces (t : Token) : Token := (dropSpaces (dropSpaces t).reverse).reverse

/-- A line as its operation name and its operands (R99). -/
def lineWords (line : List Byte) : Token × List Token :=
  let body := dropSpaces line
  let rest := trimSpaces (body.dropWhile (· != 32#8))
  (body.takeWhile (· != 32#8), if rest = [] then [] else (splitCommas rest).map trimSpaces)

/-! ### Numbers: decimal unless written `0x` or `0b` (R10) -/

/-- The value of a digit character, up to hexadecimal. -/
def digitVal (b : Byte) : Option Nat :=
  let n := b.toNat
  if 48 ≤ n ∧ n ≤ 57 then some (n - 48)
  else if 65 ≤ n ∧ n ≤ 70 then some (n - 55)
  else if 97 ≤ n ∧ n ≤ 102 then some (n - 87)
  else none

/-- The value of digits read after the value `acc`, in a base. -/
def digitsVal (base : Nat) : Nat → Token → Option Nat
  | acc, [] => some acc
  | acc, b :: bs =>
    match digitVal b with
    | some d => if d < base then digitsVal base (acc * base + d) bs else none
    | none => none

/-- A number of at least one digit, in a base. -/
def baseNumber (base : Nat) (t : Token) : Except DecodeError Nat :=
  match t with
  | [] => .error .badNumber
  | _ :: _ =>
    match digitsVal base 0 t with
    | some n => .ok n
    | none => .error .badNumber

/-- A number as R10 writes it. -/
def natOf (t : Token) : Except DecodeError Nat :=
  if t.take 2 = [48#8, 120#8] then baseNumber 16 (t.drop 2)
  else if t.take 2 = [48#8, 98#8] then baseNumber 2 (t.drop 2)
  else baseNumber 10 t

/-- A 32-bit number (R99: "`A` and `V` are 32-bit numbers"). -/
def word32Of (t : Token) : Except DecodeError Word32 := do
  let n ← natOf t
  if n < 2 ^ 32 then .ok (BitVec.ofNat 32 n) else .error .numberTooWide

/-! ### Operands -/

/-- `REG` of R99: a register name, a raw DP address, or any other name. -/
def dpRefOf (t : Token) : Except DecodeError DpRef :=
  match dpNameOf t with
  | some n => .ok (.name n)
  | none =>
    if validName t then .ok (.other t)
    else if (t.head?.map isDigit).getD false then (word32Of t).map .addr
    else .error .badName

/-- `AP` of R99: an AP name or index. -/
def apRefOf (t : Token) : Except DecodeError ApRef :=
  if validName t then .ok (.name t)
  else if (t.head?.map isDigit).getD false then (natOf t).map .index
  else .error .badName

/-- The address operand `A` of R99; the word `none` writes an absent address, as in the example of
R300. -/
def addrOf (t : Token) : Except DecodeError (Option Word32) :=
  if t = ascii "none" then .ok none else (word32Of t).map some

/-- `jtag | swd` (R99). -/
def transportOf (t : Token) : Except DecodeError Transport :=
  if t = ascii "jtag" then .ok .jtag
  else if t = ascii "swd" then .ok .swd
  else .error .badTransport

/-- The optional operands of R99. -/
inductive OptKey where
  | attempts
  | wAttempts
  | rAttempts
  | exp
  | mask
  | rMask
  | force
  deriving DecidableEq, Repr

/-- The written key of an optional operand. -/
def OptKey.word : OptKey → Token
  | .attempts => ascii "attempts"
  | .wAttempts => ascii "w_attempts"
  | .rAttempts => ascii "r_attempts"
  | .exp => ascii "exp"
  | .mask => ascii "mask"
  | .rMask => ascii "r_mask"
  | .force => ascii "force"

/-- The optional operands read so far. -/
structure OptVals where
  attempts : Option Nat := none
  wAttempts : Option Nat := none
  rAttempts : Option Nat := none
  exp : Option Word32 := none
  mask : Option Word32 := none
  force : Bool := false
  deriving DecidableEq, Repr

/-- One field set once. -/
def setOnce {α : Type} (old : Option α) (v : α) : Except DecodeError (Option α) :=
  match old with
  | none => .ok (some v)
  | some _ => .error .duplicateOption

/-- The value `t` given to the optional operand `k`. `r_mask` is the mask of `mem_write_read` (R250). -/
def setOption (k : OptKey) (t : Token) (o : OptVals) : Except DecodeError OptVals :=
  match k with
  | .attempts => do
    let v ← setOnce o.attempts (← natOf t)
    .ok { o with attempts := v }
  | .wAttempts => do
    let v ← setOnce o.wAttempts (← natOf t)
    .ok { o with wAttempts := v }
  | .rAttempts => do
    let v ← setOnce o.rAttempts (← natOf t)
    .ok { o with rAttempts := v }
  | .exp => do
    let v ← setOnce o.exp (← word32Of t)
    .ok { o with exp := v }
  | .mask | .rMask => do
    let v ← setOnce o.mask (← word32Of t)
    .ok { o with mask := v }
  | .force => .error .unknownOption

/-- One optional operand, of those the command takes: `key=value`, or the word `force`. -/
def readOption (allowed : List OptKey) (t : Token) (o : OptVals) : Except DecodeError OptVals :=
  let key := t.takeWhile (· != 61#8)
  match allowed.find? (fun k => k.word = key), t.drop key.length with
  | some .force, [] => if o.force then .error .duplicateOption else .ok { o with force := true }
  | some k, 61#8 :: value => setOption k value o
  | some _, _ => .error .badNumber
  | none, _ => .error (if t.contains 61#8 then .unknownOption else .extraOperand)

/-- The optional operands of a command, in any order (the vectors of 95_test_vectors.md write them in
more than one). -/
def readOptions (allowed : List OptKey) : List Token → OptVals → Except DecodeError OptVals
  | [], o => .ok o
  | t :: ts, o => do readOptions allowed ts (← readOption allowed t o)

/-- Read options with the defaults of R12 and R13. -/
def OptVals.readOpts (o : OptVals) : ReadOpts :=
  { attempts := o.attempts.getD 1, exp := o.exp, mask := o.mask.getD 0xFFFFFFFF#32 }

/-- Write options with the default of R13. -/
def OptVals.writeOpts (o : OptVals) : WriteOpts := { attempts := o.attempts.getD 1 }

/-- The options of a composition, with the defaults of R12 and R13. -/
def OptVals.wrOpts (o : OptVals) : WROpts :=
  { wAttempts := o.wAttempts.getD 1, rAttempts := o.rAttempts.getD 1, exp := o.exp,
    mask := o.mask.getD 0xFFFFFFFF#32 }

/-! ### The 13 commands (R99) -/

/-- `read_dp REG [, exp=V] [, mask=V] [, attempts=N]` -/
def readReadDp : List Token → Except DecodeError Instr
  | r :: os => do
    let o ← readOptions [.exp, .mask, .attempts] os {}
    .ok (.readDp (← dpRefOf r) o.readOpts)
  | [] => .error .missingOperand

/-- `write_dp REG, V [, attempts=N]` -/
def readWriteDp : List Token → Except DecodeError Instr
  | r :: v :: os => do
    let o ← readOptions [.attempts] os {}
    .ok (.writeDp (← dpRefOf r) (← word32Of v) o.writeOpts)
  | _ => .error .missingOperand

/-- `write_read_dp REG, V [, exp=V] [, mask=V] [, w_attempts=N] [, r_attempts=N]` -/
def readWriteReadDp : List Token → Except DecodeError Instr
  | r :: v :: os => do
    let o ← readOptions [.exp, .mask, .wAttempts, .rAttempts] os {}
    .ok (.writeReadDp (← dpRefOf r) (← word32Of v) o.wrOpts)
  | _ => .error .missingOperand

/-- `read_ap A [, exp=V] [, mask=V] [, attempts=N]`; with no operand, no address (V70). -/
def readReadAp : List Token → Except DecodeError Instr
  | a :: os => do
    let o ← readOptions [.exp, .mask, .attempts] os {}
    .ok (.readAp (← addrOf a) o.readOpts)
  | [] => .ok (.readAp none {})

/-- `write_ap A, V [, attempts=N]` -/
def readWriteAp : List Token → Except DecodeError Instr
  | a :: v :: os => do
    let o ← readOptions [.attempts] os {}
    .ok (.writeAp (← addrOf a) (← word32Of v) o.writeOpts)
  | _ => .error .missingOperand

/-- `set_ap_select A`; with no operand, no address. -/
def readSetApSelect : List Token → Except DecodeError Instr
  | [a] => do .ok (.setApSelect (← addrOf a))
  | [] => .ok (.setApSelect none)
  | _ => .error .extraOperand

/-- `mem_set_size AP, W` -/
def readMemSetSize : List Token → Except DecodeError Instr
  | [ap, w] => do .ok (.memSetSize (← apRefOf ap) (← natOf w))
  | _ :: _ :: _ => .error .extraOperand
  | _ => .error .missingOperand

/-- `mem_set_addr AP, A [, force]` -/
def readMemSetAddr : List Token → Except DecodeError Instr
  | ap :: a :: os => do
    let o ← readOptions [.force] os {}
    .ok (.memSetAddr (← apRefOf ap) (← addrOf a) o.force)
  | _ => .error .missingOperand

/-- `mem_read AP, A, W [, exp=V] [, mask=V] [, attempts=N] [, force]` -/
def readMemRead : List Token → Except DecodeError Instr
  | ap :: a :: w :: os => do
    let o ← readOptions [.exp, .mask, .attempts, .force] os {}
    .ok (.memRead (← apRefOf ap) (← addrOf a) (← natOf w) o.readOpts o.force)
  | _ => .error .missingOperand

/-- `mem_write AP, A, V, W [, attempts=N] [, force]` -/
def readMemWrite : List Token → Except DecodeError Instr
  | ap :: a :: v :: w :: os => do
    let o ← readOptions [.attempts, .force] os {}
    .ok (.memWrite (← apRefOf ap) (← addrOf a) (← word32Of v) (← natOf w) o.writeOpts o.force)
  | _ => .error .missingOperand

/-- `mem_write_read AP, A, V, W [, r_mask=V] [, w_attempts=N] [, r_attempts=N] [, force]`; `exp=V` too,
which the record of R100 and R250 holds and the line of R99 leaves out (log entry 5). -/
def readMemWriteRead : List Token → Except DecodeError Instr
  | ap :: a :: v :: w :: os => do
    let o ← readOptions [.exp, .rMask, .wAttempts, .rAttempts, .force] os {}
    .ok (.memWriteRead (← apRefOf ap) (← addrOf a) (← word32Of v) (← natOf w) o.wrOpts o.force)
  | _ => .error .missingOperand

/-- `set_dp jtag | swd` -/
def readSetDp : List Token → Except DecodeError Instr
  | [k] => do .ok (.setDp (← transportOf k))
  | [] => .error .missingOperand
  | _ => .error .extraOperand

/-- `reset_dp` -/
def readResetDp : List Token → Except DecodeError Instr
  | [] => .ok .resetDp
  | _ => .error .extraOperand

/-- The operation names of R99, each with the reading of its operands. -/
def decodeCommand (line : List Byte) : Except DecodeError Instr :=
  let w := lineWords line
  if w.1 = ascii "read_dp" then readReadDp w.2
  else if w.1 = ascii "write_dp" then readWriteDp w.2
  else if w.1 = ascii "write_read_dp" then readWriteReadDp w.2
  else if w.1 = ascii "read_ap" then readReadAp w.2
  else if w.1 = ascii "write_ap" then readWriteAp w.2
  else if w.1 = ascii "set_ap_select" then readSetApSelect w.2
  else if w.1 = ascii "mem_set_size" then readMemSetSize w.2
  else if w.1 = ascii "mem_set_addr" then readMemSetAddr w.2
  else if w.1 = ascii "mem_read" then readMemRead w.2
  else if w.1 = ascii "mem_write" then readMemWrite w.2
  else if w.1 = ascii "mem_write_read" then readMemWriteRead w.2
  else if w.1 = ascii "set_dp" then readSetDp w.2
  else if w.1 = ascii "reset_dp" then readResetDp w.2
  else .error .unknownMnemonic

/-! ### Wire frames -/

/-- Bytes as one number, the first byte least significant (R65). -/
def bytesVal : List Byte → Nat
  | [] => 0
  | b :: bs => b.toNat + 256 * bytesVal bs

/-- A number as `k` bytes, the least significant first. -/
def valBytes : Nat → Nat → List Byte
  | 0, _ => []
  | k + 1, n => BitVec.ofNat 8 n :: valBytes k (n / 256)

/-- The IR codes of R81; the other codes have no meaning (R95). -/
def decodeIr : List Byte → Except DecodeError Instr
  | [b] =>
    match b.toNat with
    | 0x8 => .ok .irAbort
    | 0xA => .ok .irDpacc
    | 0xB => .ok .irApacc
    | 0xE => .ok .irIdcode
    | 0xF => .ok .irBypass
    | _ => .error (if b.toNat < 16 then .badIrCode else .reservedBits)
  | _ => .error .badLength

/-- The 35-bit shift-in value of R82: data in [34:3], addr2 in [2:1], rnw in [0]; the data of a read is 0
(R82, R183), so a read with other data is none. -/
def decodeDr35 (bs : List Byte) : Except DecodeError Instr :=
  if bs.length ≠ 5 then .error .badLength
  else if bytesVal bs < 2 ^ 35 then
    let v := BitVec.ofNat 35 (bytesVal bs)
    if v.getLsbD 0 = true ∧ v.extractLsb' 3 32 ≠ 0#32 then .error .reservedBits
    else .ok (.drAcc35 (v.extractLsb' 3 32) (v.extractLsb' 1 2) (v.getLsbD 0))
  else .error .reservedBits

/-- The 35-bit capture of R84: data in [34:3], acknowledge in [2:0]. -/
def decodeDr35Capture (bs : List Byte) : Except DecodeError Instr :=
  if bs.length ≠ 5 then .error .badLength
  else if bytesVal bs < 2 ^ 35 then
    let v := BitVec.ofNat 35 (bytesVal bs)
    .ok (.drAcc35Capture (v.extractLsb' 3 32) (v.extractLsb' 0 3))
  else .error .reservedBits

/-- The IDCODE scan of R83: 32 bits, shift-in value 0. -/
def decodeDr32 (bs : List Byte) : Except DecodeError Instr :=
  if bs.length ≠ 4 then .error .badLength
  else if bytesVal bs = 0 then .ok .drIdcode32
  else .error .reservedBits

/-- The eight SWD read requests of R85. -/
def swdReadOf (b : Byte) : Option Instr :=
  match b.toNat with
  | 0xA5 => some .swdDpRA00
  | 0x8D => some .swdDpRA01
  | 0x95 => some .swdDpRA10
  | 0xBD => some .swdDpRA11
  | 0x87 => some .swdApRA00
  | 0xAF => some .swdApRA01
  | 0xB7 => some .swdApRA10
  | 0x9F => some .swdApRA11
  | _ => none

/-- The eight SWD write requests of R85, with the write data of R88. -/
def swdWriteOf (b : Byte) (v : Word32) : Option Instr :=
  match b.toNat with
  | 0x81 => some (.swdDpWA00 v)
  | 0xA9 => some (.swdDpWA01 v)
  | 0xB1 => some (.swdDpWA10 v)
  | 0x99 => some (.swdDpWA11 v)
  | 0xA3 => some (.swdApWA00 v)
  | 0x8B => some (.swdApWA01 v)
  | 0x93 => some (.swdApWA10 v)
  | 0xBB => some (.swdApWA11 v)
  | _ => none

/-- A SWD request byte, with four data bytes after a write request and none after a read request. -/
def decodeSwd : List Byte → Except DecodeError Instr
  | [] => .error .badLength
  | b :: bs =>
    match swdReadOf b, swdWriteOf b (BitVec.ofNat 32 (bytesVal bs)) with
    | some i, _ => if bs = [] then .ok i else .error .badLength
    | none, some i => if bs.length = 4 then .ok i else .error .badLength
    | none, none => .error .badRequest

/-- The instruction a port item holds, or why it holds none. -/
def decode (p : PortItem) : Except DecodeError Instr :=
  match p.format with
  | .command => decodeCommand p.bytes
  | .jtagIr4 => decodeIr p.bytes
  | .jtagDr35 => decodeDr35 p.bytes
  | .jtagDr35Capture => decodeDr35Capture p.bytes
  | .jtagDr32 => decodeDr32 p.bytes
  | .swdRequest8 => decodeSwd p.bytes

/-! ### The encoder -/

/-- The character of a digit below 16. -/
def digitChar (d : Nat) : Byte := BitVec.ofNat 8 (if d < 10 then 48 + d else 55 + d)

/-- The lowest `k` hexadecimal digits of a number, most significant first. -/
def hexDigits : Nat → Nat → Token
  | 0, _ => []
  | k + 1, n => digitChar (n / 16 ^ k % 16) :: hexDigits k n

/-- A 32-bit number in hexadecimal. -/
def hexWord (v : Word32) : Token := ascii "0x" ++ hexDigits 8 v.toNat

/-- The decimal digits of a number, with enough fuel. -/
def decDigits : Nat → Nat → Token
  | 0, _ => []
  | fuel + 1, n =>
    if n < 10 then [digitChar n] else decDigits fuel (n / 10) ++ [digitChar (n % 10)]

/-- A number in decimal. -/
def decNat (n : Nat) : Token := decDigits (n + 1) n

/-- The written name of a DP register (R99). -/
def DpName.word : DpName → Token
  | .idcode => ascii "IDCODE"
  | .abort => ascii "ABORT"
  | .ctrlStat => ascii "CTRL_STAT"
  | .select => ascii "SELECT"
  | .rdbuff => ascii "RDBUFF"
  | .wcr => ascii "WCR"
  | .resend => ascii "RESEND"

/-- A DP register reference, written. -/
def DpRef.word : DpRef → Token
  | .name n => n.word
  | .addr d => hexWord d
  | .other s => s

/-- An AP reference, written. -/
def ApRef.word : ApRef → Token
  | .index i => decNat i
  | .name s => s

/-- An address operand, written. -/
def addrWord : Option Word32 → Token
  | some a => hexWord a
  | none => ascii "none"

/-- A transport, written. -/
def Transport.word : Transport → Token
  | .jtag => ascii "jtag"
  | .swd => ascii "swd"

/-- An optional operand, written. -/
def optWord (k : OptKey) (value : Token) : Token := k.word ++ 61#8 :: value

/-- An expected value, written where there is one. -/
def expWords : Option Word32 → List Token
  | some e => [optWord .exp (hexWord e)]
  | none => []

/-- The flag `force`, written where it is set. -/
def forceWords (force : Bool) : List Token := if force then [OptKey.force.word] else []

/-- Read options, written. -/
def ReadOpts.words (o : ReadOpts) : List Token :=
  expWords o.exp ++ [optWord .mask (hexWord o.mask), optWord .attempts (decNat o.attempts)]

/-- Write options, written. -/
def WriteOpts.words (o : WriteOpts) : List Token := [optWord .attempts (decNat o.attempts)]

/-- The options of a composition, written; the mask's key is `mask` or `r_mask` (R99). -/
def WROpts.words (maskKey : OptKey) (o : WROpts) : List Token :=
  expWords o.exp ++ [optWord maskKey (hexWord o.mask), optWord .wAttempts (decNat o.wAttempts),
    optWord .rAttempts (decNat o.rAttempts)]

/-- Operands separated by a comma and a space. -/
def joinOperands : List Token → List Byte
  | [] => []
  | [t] => t
  | t :: ts => t ++ 44#8 :: 32#8 :: joinOperands ts

/-- A command line (R99). -/
def encodeLine (mnemonic : String) (operands : List Token) : PortItem :=
  ⟨.command, ascii mnemonic ++ (if operands = [] then [] else 32#8 :: joinOperands operands)⟩

/-- A wire frame of one byte. -/
def encodeByte (f : Format) (b : Byte) : PortItem := ⟨f, [b]⟩

/-- A SWD write: the request byte, then the 32 data bits least significant first (R88). -/
def encodeSwdWrite (b : Byte) (v : Word32) : PortItem := ⟨.swdRequest8, b :: valBytes 4 v.toNat⟩

/-- The stored form of an instruction. -/
def encode : Instr → PortItem
  | .readDp r o => encodeLine "read_dp" (r.word :: o.words)
  | .writeDp r v o => encodeLine "write_dp" (r.word :: hexWord v :: o.words)
  | .writeReadDp r v o => encodeLine "write_read_dp" (r.word :: hexWord v :: o.words .mask)
  | .readAp a o => encodeLine "read_ap" (addrWord a :: o.words)
  | .writeAp a v o => encodeLine "write_ap" (addrWord a :: hexWord v :: o.words)
  | .setApSelect a => encodeLine "set_ap_select" [addrWord a]
  | .memSetSize ap w => encodeLine "mem_set_size" [ap.word, decNat w]
  | .memSetAddr ap a force => encodeLine "mem_set_addr" (ap.word :: addrWord a :: forceWords force)
  | .memRead ap a w o force =>
    encodeLine "mem_read" (ap.word :: addrWord a :: decNat w :: (o.words ++ forceWords force))
  | .memWrite ap a v w o force =>
    encodeLine "mem_write"
      (ap.word :: addrWord a :: hexWord v :: decNat w :: (o.words ++ forceWords force))
  | .memWriteRead ap a v w o force =>
    encodeLine "mem_write_read"
      (ap.word :: addrWord a :: hexWord v :: decNat w :: (o.words .rMask ++ forceWords force))
  | .setDp k => encodeLine "set_dp" [k.word]
  | .resetDp => encodeLine "reset_dp" []
  | .irAbort => encodeByte .jtagIr4 0x08#8
  | .irDpacc => encodeByte .jtagIr4 0x0A#8
  | .irApacc => encodeByte .jtagIr4 0x0B#8
  | .irIdcode => encodeByte .jtagIr4 0x0E#8
  | .irBypass => encodeByte .jtagIr4 0x0F#8
  | .drAcc35 data addr2 rnw =>
    ⟨.jtagDr35, valBytes 5 (data ++ addr2 ++ BitVec.ofBool rnw).toNat⟩
  | .drAcc35Capture data ack => ⟨.jtagDr35Capture, valBytes 5 (data ++ ack).toNat⟩
  | .drIdcode32 => ⟨.jtagDr32, valBytes 4 0⟩
  | .swdDpWA00 v => encodeSwdWrite 0x81#8 v
  | .swdDpWA01 v => encodeSwdWrite 0xA9#8 v
  | .swdDpWA10 v => encodeSwdWrite 0xB1#8 v
  | .swdDpWA11 v => encodeSwdWrite 0x99#8 v
  | .swdDpRA00 => encodeByte .swdRequest8 0xA5#8
  | .swdDpRA01 => encodeByte .swdRequest8 0x8D#8
  | .swdDpRA10 => encodeByte .swdRequest8 0x95#8
  | .swdDpRA11 => encodeByte .swdRequest8 0xBD#8
  | .swdApWA00 v => encodeSwdWrite 0xA3#8 v
  | .swdApWA01 v => encodeSwdWrite 0x8B#8 v
  | .swdApWA10 v => encodeSwdWrite 0x93#8 v
  | .swdApWA11 v => encodeSwdWrite 0xBB#8 v
  | .swdApRA00 => encodeByte .swdRequest8 0x87#8
  | .swdApRA01 => encodeByte .swdRequest8 0xAF#8
  | .swdApRA10 => encodeByte .swdRequest8 0xB7#8
  | .swdApRA11 => encodeByte .swdRequest8 0x9F#8

/-! ### Instructions given as numbers -/

/-- The port item whose bits are `w` (bit 0 first), of `nbits` bits in whole bytes. Up to 8 bits: an
IR code where `w` is below 16 (every SWD request has bit 7 set, R85), else a SWD request, with four
data bytes of zeros after a write request (bit 2, RnW, clear). Up to 32 bits: the IDCODE scan. Up to
40: the 35-bit shift-in value. More: a command line, its first character lowest (log entry 6). -/
def layOutWord (nbits w : Nat) : PortItem :=
  if nbits ≤ 8 then
    if w < 16 then ⟨.jtagIr4, valBytes 1 w⟩
    else if w / 4 % 2 = 1 then ⟨.swdRequest8, valBytes 1 w⟩
    else ⟨.swdRequest8, valBytes 5 w⟩
  else if nbits ≤ 32 then ⟨.jtagDr32, valBytes 4 w⟩
  else if nbits ≤ 40 then ⟨.jtagDr35, valBytes 5 w⟩
  else ⟨.command, valBytes (nbits / 8) w⟩

/-- The instruction the decoder reads from the bits `w` of an instruction of `nbits` bits. -/
def decodeTableWord (nbits w : Nat) : Option Instr :=
  match decode (layOutWord nbits w) with
  | .ok i => some i
  | .error _ => none

end Sys2Proof
end

