-- ==== Sys2Proof/Machine/Fetch.lean ====
section
/-! DEFINITION. The command port (60_exceptions.md R310): how the next item is taken, and how an
instruction given as a number is put there (log entries 3, 6 and 12). -/

namespace Sys2Proof.Machine

/-- The next item of the command port, with the state after it is taken. -/
def takeItem (s : State) : Option (PortItem × State) :=
  match s.port with
  | [] => none
  | p :: ps => some (p, { s with port := ps })

/-- The transport a port item's frame travels on; a command travels on neither. -/
def itemTransport (p : PortItem) : Option Transport :=
  match p.format with
  | .command => none
  | .swdRequest8 => some .swd
  | .jtagIr4 | .jtagDr35 | .jtagDr35Capture | .jtagDr32 => some .jtag

/-- A state whose next step takes the item: first on the port, its transport active. -/
def placeItem (p : PortItem) (s : State) : State :=
  { s with port := p :: s.port, active := (itemTransport p).getD s.active }

end Sys2Proof.Machine
end

