-- ==== Sys2Proof/Machine/Step.lean ====
section
/-! DEFINITION. One step: the next item of the command port, decoded and run (60_exceptions.md R310). -/

namespace Sys2Proof.Machine

/-- One step. With an empty port nothing happens (R302); an item that is no instruction is refused. -/
def step (s : State) : Host.Outcome State Fault Refusal :=
  match takeItem s with
  | none => .next s
  | some (p, s') =>
    match decode p with
    | .ok i => exec i s'
    | .error e => .refused (.undecodable e)

/-- The state with the instruction whose bits are `w` placed where the next step takes it. -/
def State.withFetchWord (s : State) (nbits w : Nat) : State := placeItem (layOutWord nbits w) s

end Sys2Proof.Machine
end

