-- ==== Sys2Proof/Machine/Timing.lean ====
section
/-! DEFINITION. Clock counts (70_reset_and_hazards.md R346 to R349; 43_swd_framing.md R221). The engine
models no time: these count what its trace implies at the transport (log entry 22). -/

namespace Sys2Proof.Machine

/-- The clocks of one transport event; a JTAG scan adds the transport's overhead (R313, R347). -/
def clocks (cfg : Params) : TransportEvent → Nat
  | .irScan _ => 4 + cfg.jtagIrOverhead
  | .drScan35 _ _ => 35 + cfg.jtagDrOverhead
  | .drScan32 _ _ => 32 + cfg.jtagDrOverhead
  | .idle n => n
  | .swdSend8 _ => 8
  | .swdSend32 _ => 32
  | .swdSend1 _ => 1
  | .swdGet3 _ => 3
  | .swdGet32 _ => 32
  | .swdGet1 _ => 1
  | .swdTrn => 1
  | .swdPark n => n

/-- The clocks of a sequence of events. -/
def totalClocks (cfg : Params) : List TransportEvent → Nat
  | [] => 0
  | e :: es => clocks cfg e + totalClocks cfg es

end Sys2Proof.Machine
end

