-- ==== Sys2Proof/Safety.lean ====
section
/-! DEFINITION. The terms claims use: the event sequences of the wire, written as lists from the framing
rules; the state after some events; the invariants of the machine; what an observer of the wire knows. -/

namespace Sys2Proof.Machine

/-! ### Event sequences -/

/-- The events of `cycle(n)` (R11). -/
def idleEvents (n : Nat) : List TransportEvent := if n = 0 then [] else [.idle n]

/-- The IR scan an access needs under an IR cache (R181). -/
def irEvents (ir : Option Word4) (c : IrCode) : List TransportEvent :=
  if ir = some (irValue c) then [] else [.irScan (irValue c)]

/-- One JTAG access (R180): IR where it changes, `n` identical scans (R185), the settle delay (R186). -/
def jtagEvents (cfg : Params) (ir : Option Word4) (c : IrCode) (scan : TransportEvent) (n : Nat) :
    List TransportEvent :=
  irEvents ir c ++ List.replicate n scan ++ idleEvents cfg.accAccessDly

/-- The 35-bit scan of a write or a request: no compare (R82, R187). -/
def plainScan (data : Word32) (addr2 : BitVec 2) (rnw : Bool) : TransportEvent :=
  .drScan35 (drValue data addr2 rnw) (noCmp 35)

/-- The RDBUFF scan that returns a read's data, with its widened compare (R91, R164). -/
def rdbuffScan (cfg : Params) (cmp : Cmp 32) : TransportEvent :=
  .drScan35 (drValue 0#32 0b11#2 true) (widenCmp cfg cmp)

/-- One SWD read packet (R210, R214, R219). -/
def readPacket (cfg : Params) (apndp : Bool) (a : BitVec 2) (cmp : Cmp 32) : List TransportEvent :=
  [.swdSend8 (swdRequest apndp true a), .swdTrn, .swdGet3 (noCmp 3), .swdGet32 cmp,
    .swdGet1 (noCmp 1), .swdTrn, .swdPark cfg.swdParkCycles]

/-- One SWD write packet (R210, R216, R219). -/
def writePacket (cfg : Params) (apndp : Bool) (a : BitVec 2) (v : Word32) : List TransportEvent :=
  [.swdSend8 (swdRequest apndp false a), .swdTrn, .swdGet3 (noCmp 3), .swdTrn, .swdSend32 v,
    .swdSend1 (xorFold v), .swdPark cfg.swdParkCycles]

/-- The same events `n` times. -/
def repeatEvents (n : Nat) (es : List TransportEvent) : List TransportEvent :=
  (List.replicate n es).flatten

/-! ### States -/

/-- The state after the events `es`, of which `k` captured. -/
def State.after (s : State) (es : List TransportEvent) (k : Nat) : State :=
  { s with
    trace := s.trace ++ es
    captures := s.captures.drop k
    draws := s.draws + (k - s.captures.length) }

/-- The state at the end of a command that answers `r`. -/
def State.answered (s : State) (r : Response) : State :=
  { s with pc := s.pc + 1, responses := s.responses ++ [r] }

/-- The state at the end of a command that raises the fatal error `c` (R298): the sticky fatal state, and
the response. -/
def State.fataled (s : State) (c : FatalCode) : State :=
  ({ s with fatal := some c } : State).answered ⟨.fatal c, none, true⟩

/-- The acknowledge cache after a 35-bit scan captured `c` under the 32-bit descriptor `cmp` (R30, R190). -/
def ackAfter (cfg : Params) (cmp : Cmp 32) (c : Word35) (old : Option Word3) : Option Word3 :=
  if cfg.readAckWidth = .three ∧ cmp ≠ noCmp 32 then some (captureAck c) else old

/-! ### SELECT -/

/-- The SELECT value a SWD access to DP address 0x4 in bank `b` writes first, if any (R138). -/
def dpBankWrite (cache : Option Word32) (b : Word32) : Option Word32 :=
  match cache with
  | none => some b
  | some s0 =>
    if (s0 &&& 0xFF0000F0#32 ||| b) &&& 0xFF0000F1#32 ≠ s0 &&& 0xFF0000F1#32 then
      some (s0 &&& 0xFF0000F0#32 ||| b)
    else none

/-- The SELECT value an AP access at `a` writes first, if any (R161). -/
def apSelectWrite (k : Transport) (cache : Option Word32) (a : Word32) : Option Word32 :=
  match cache with
  | none => some (a &&& 0xFF0000F0#32)
  | some c =>
    if c &&& selKey k ≠ (a &&& 0xFF0000F0#32) &&& selKey k then some (a &&& 0xFF0000F0#32) else none

/-- The SELECT cache after such a write. -/
def selectAfter (cache : Option Word32) : Option Word32 → Option Word32
  | some v => some v
  | none => cache

/-- The captures of such a write, on either transport: one scan, or one acknowledge. -/
def selectGets : Option Word32 → Nat
  | some _ => 1
  | none => 0

/-- The events of such a write on JTAG. -/
def selectJtag (cfg : Params) (ir : Option Word4) : Option Word32 → List TransportEvent
  | some v => jtagEvents cfg ir .dpacc (plainScan v 0b10#2 false) 1
  | none => []

/-- The IR cache after such a write on JTAG. -/
def irAfterSelect (ir : Option Word4) : Option Word32 → Option Word4
  | some _ => some (irValue .dpacc)
  | none => ir

/-- The events of such a write on SWD. -/
def selectSwd (cfg : Params) : Option Word32 → List TransportEvent
  | some v => writePacket cfg false 0b10#2 v
  | none => []

/-! ### DP accesses, each as the state after its events -/

/-- The state after `n` 35-bit scans of one JTAG access without a compare (R187): a write. -/
def State.jtagWritten (s : State) (c : IrCode) (a : BitVec 2) (v : Word32) (n : Nat) : State :=
  { s.after (jtagEvents s.cfg s.dpJtag.ir c (plainScan v a false) n) n with
    dpJtag := { s.dpJtag with ir := some (irValue c) } }

/-- The state after `n` RDBUFF scans under `cmp` (R128, R164). -/
def State.jtagRdbuff (s : State) (n : Nat) (cmp : Cmp 32) : State :=
  { s.after (jtagEvents s.cfg s.dpJtag.ir .dpacc (rdbuffScan s.cfg cmp) n) n with
    dpJtag := { s.dpJtag with ir := some (irValue .dpacc) }
    lastAck := ackAfter s.cfg cmp (s.captureAt (n - 1)) s.lastAck }

/-- The state after a two-phase JTAG DP read at sub-address `a` (R137): one request, `n` RDBUFF scans. -/
def State.jtagRead2 (s : State) (a : BitVec 2) (n : Nat) (cmp : Cmp 32) : State :=
  { s.after
      (jtagEvents s.cfg s.dpJtag.ir .dpacc (plainScan 0#32 a true) 1 ++
        jtagEvents s.cfg (some (irValue .dpacc)) .dpacc (rdbuffScan s.cfg cmp) n) (1 + n) with
    dpJtag := { s.dpJtag with ir := some (irValue .dpacc) }
    lastAck := ackAfter s.cfg cmp (s.captureAt (1 + (n - 1))) s.lastAck }

/-- What a 35-bit scan under `cmp` answers when it captures `c` (R184, R187). -/
def jtagAnswer (cfg : Params) (c : Word35) (cmp : Cmp 32) : Response :=
  okRead (captureData c) (matchCmp c (widenCmp cfg cmp))

/-- The state after `n` SWD DP read packets at sub-address `a`, the SELECT write `w` before them where
there is one (R138, R220). -/
def State.swdDpRead (s : State) (w : Option Word32) (a : BitVec 2) (n : Nat) (cmp : Cmp 32) : State :=
  { s.after (selectSwd s.cfg w ++ repeatEvents n (readPacket s.cfg false a cmp))
      (selectGets w + 3 * n) with
    dpSwd := { s.dpSwd with currentSelect := selectAfter s.dpSwd.currentSelect w }
    lastAck := some ((s.captureAt (selectGets w + 3 * (n - 1))).setWidth 3) }

/-- What such packets answer: the data of the last (R214, R220). -/
def State.swdAnswer (s : State) (w : Option Word32) (n : Nat) (cmp : Cmp 32) : Response :=
  let d := (s.captureAt (selectGets w + 3 * (n - 1) + 1)).setWidth 32
  okRead d (matchCmp d cmp)

/-- The state after `n` SWD DP write packets at sub-address `a`, after the SELECT write `w`. -/
def State.swdDpWritten (s : State) (w : Option Word32) (a : BitVec 2) (v : Word32) (n : Nat) : State :=
  { s.after (selectSwd s.cfg w ++ repeatEvents n (writePacket s.cfg false a v)) (selectGets w + n) with
    dpSwd := { s.dpSwd with currentSelect := selectAfter s.dpSwd.currentSelect w }
    lastAck := some ((s.captureAt (selectGets w + (n - 1))).setWidth 3) }

/-! ### AP accesses, each as the state after its events -/

/-- The SELECT value an AP access at `a` writes first in this state, if any (R161). -/
def State.apSelect (s : State) (a : Word32) : Option Word32 :=
  apSelectWrite s.active (s.dp s.active).currentSelect a

/-- The state after `SelectForAP(a)` (R161). -/
def State.apSelected (s : State) (a : Word32) : State :=
  let w := s.apSelect a
  match s.active with
  | .jtag =>
    { s.after (selectJtag s.cfg s.dpJtag.ir w) (selectGets w) with
      dpJtag := { s.dpJtag with
        currentSelect := selectAfter s.dpJtag.currentSelect w, ir := irAfterSelect s.dpJtag.ir w } }
  | .swd =>
    { s.after (selectSwd s.cfg w) (selectGets w) with
      dpSwd := { s.dpSwd with currentSelect := selectAfter s.dpSwd.currentSelect w }
      lastAck := if w.isSome then some ((s.captureAt 0).setWidth 3) else s.lastAck }

/-- The state after an AP write of `v` at `a` with `n` attempts (R165, R166, R168). -/
def State.apWritten (s : State) (a v : Word32) (n : Nat) : State :=
  let w := s.apSelect a
  match s.active with
  | .jtag =>
    { s.after
        (selectJtag s.cfg s.dpJtag.ir w ++
          jtagEvents s.cfg (irAfterSelect s.dpJtag.ir w) .apacc (plainScan v (a.extractLsb' 2 2) false) n ++
          idleEvents s.cfg.writeApDly ++ idleEvents (apWait s.cfg a))
        (selectGets w + n) with
      dpJtag := { s.dpJtag with
        currentSelect := selectAfter s.dpJtag.currentSelect w, ir := some (irValue .apacc) } }
  | .swd =>
    { s.after
        (selectSwd s.cfg w ++ repeatEvents n (writePacket s.cfg true (a.extractLsb' 2 2) v) ++
          idleEvents (apWait s.cfg a))
        (selectGets w + n) with
      dpSwd := { s.dpSwd with currentSelect := selectAfter s.dpSwd.currentSelect w }
      lastAck := some ((s.captureAt (selectGets w + (n - 1))).setWidth 3) }

/-- The state after an AP read at `a` (R163): select, the junk read, wait states, and `n` RDBUFF reads
under `cmp` (R164). -/
def State.apRead (s : State) (a : Word32) (n : Nat) (cmp : Cmp 32) : State :=
  let w := s.apSelect a
  match s.active with
  | .jtag =>
    { s.after
        (selectJtag s.cfg s.dpJtag.ir w ++
          jtagEvents s.cfg (irAfterSelect s.dpJtag.ir w) .apacc (plainScan 0#32 (a.extractLsb' 2 2) true) 1 ++
          idleEvents (apWait s.cfg a) ++
          jtagEvents s.cfg (some (irValue .apacc)) .dpacc (rdbuffScan s.cfg cmp) n)
        (selectGets w + 1 + n) with
      dpJtag := { s.dpJtag with
        currentSelect := selectAfter s.dpJtag.currentSelect w, ir := some (irValue .dpacc) }
      lastAck := ackAfter s.cfg cmp (s.captureAt (selectGets w + 1 + (n - 1))) s.lastAck }
  | .swd =>
    { s.after
        (selectSwd s.cfg w ++ readPacket s.cfg true (a.extractLsb' 2 2) (noCmp 32) ++
          idleEvents (apWait s.cfg a) ++ repeatEvents n (readPacket s.cfg false 0b11#2 cmp))
        (selectGets w + 3 + 3 * n) with
      dpSwd := { s.dpSwd with currentSelect := selectAfter s.dpSwd.currentSelect w }
      lastAck := some ((s.captureAt (selectGets w + 3 + 3 * (n - 1))).setWidth 3) }

/-- What such a read returns: the last RDBUFF capture, with its compare outcome (R163, R184, R214). -/
def State.apReadResult (s : State) (a : Word32) (n : Nat) (cmp : Cmp 32) : ReadResult :=
  let k := selectGets (s.apSelect a)
  match s.active with
  | .jtag =>
    let c := s.captureAt (k + 1 + (n - 1))
    ⟨captureData c, matchCmp c (widenCmp s.cfg cmp)⟩
  | .swd =>
    let d := (s.captureAt (k + 3 + 3 * (n - 1) + 1)).setWidth 32
    ⟨d, matchCmp d cmp⟩

/-! ### Instructions -/

/-- The IR frame of a code (R81). -/
def irInstr : IrCode → Instr
  | .abort => .irAbort
  | .dpacc => .irDpacc
  | .apacc => .irApacc
  | .idcode => .irIdcode
  | .bypass => .irBypass

/-- The SWD read frame at a sub-address (R85). -/
def swdReadInstr (apndp : Bool) (a : BitVec 2) : Instr :=
  if apndp then
    if a = 0b00#2 then .swdApRA00 else if a = 0b01#2 then .swdApRA01
    else if a = 0b10#2 then .swdApRA10 else .swdApRA11
  else
    if a = 0b00#2 then .swdDpRA00 else if a = 0b01#2 then .swdDpRA01
    else if a = 0b10#2 then .swdDpRA10 else .swdDpRA11

/-- The SWD write frame at a sub-address (R85). -/
def swdWriteInstr (apndp : Bool) (a : BitVec 2) (v : Word32) : Instr :=
  if apndp then
    if a = 0b00#2 then .swdApWA00 v else if a = 0b01#2 then .swdApWA01 v
    else if a = 0b10#2 then .swdApWA10 v else .swdApWA11 v
  else
    if a = 0b00#2 then .swdDpWA00 v else if a = 0b01#2 then .swdDpWA01 v
    else if a = 0b10#2 then .swdDpWA10 v else .swdDpWA11 v

/-- The transport a wire frame travels on; none for a command. -/
def frameTransport (i : Instr) : Option Transport := itemTransport (encode i)

/-- The attempt counts of a command (R292). -/
def attemptCounts : Instr → List Nat
  | .readDp _ o | .readAp _ o | .memRead _ _ _ o _ => [o.attempts]
  | .writeDp _ _ o | .writeAp _ _ o | .memWrite _ _ _ _ o _ => [o.attempts]
  | .writeReadDp _ _ o | .memWriteRead _ _ _ _ o _ => [o.wAttempts, o.rAttempts]
  | _ => []

/-- Whether a command is a composition of two (R101). -/
def isComposition : Instr → Bool
  | .writeReadDp _ _ _ | .memWriteRead _ _ _ _ _ _ => true
  | _ => false

/-- Whether an address operand of the command is absent (R294). -/
def lacksAddress : Instr → Bool
  | .readAp a _ | .writeAp a _ _ | .setApSelect a | .memSetAddr _ a _ | .memRead _ a _ _ _
  | .memWrite _ a _ _ _ _ | .memWriteRead _ a _ _ _ _ => a.isNone
  | _ => false

/-- The AP a MEM-AP command names (R295). -/
def namedAp : Instr → Option ApRef
  | .memSetSize r _ | .memSetAddr r _ _ | .memRead r _ _ _ _ | .memWrite r _ _ _ _ _
  | .memWriteRead r _ _ _ _ _ => some r
  | _ => none

/-- The code of the register checks of a DP command (R122, R123). -/
def dpSkip (k : Transport) : Instr → Option SkipCode
  | .readDp r _ =>
    match resolveDp k true r with
    | none => some .unknownRegister
    | some n => if dpReadable k n then none else some .readOfWriteOnly
  | .writeDp r _ _ =>
    match resolveDp k false r with
    | none => some .unknownRegister
    | some n => if dpWritable n then none else some .writeToReadOnly
  | _ => none

/-- The fatal code of a command in a session without a fatal state, in the order of R300. -/
def fatalCheck (s : State) (i : Instr) : Option FatalCode :=
  if (attemptCounts i).contains 0 then some .badOption
  else if lacksAddress i then some .missingContext
  else if ((namedAp i).map fun r => (memApOf s.cfg r).isNone) = some true then some .apOwnership
  else
    match i with
    | .setDp k => if s.cfg.has k then none else some .protocolMisuse
    | _ => none

/-! ### Counting events -/

/-- The IR scans among some events. -/
def irScans : List TransportEvent → Nat
  | [] => 0
  | .irScan _ :: es => 1 + irScans es
  | _ :: es => irScans es

/-- The DR scans among some events. -/
def drScans : List TransportEvent → Nat
  | [] => 0
  | .drScan35 _ _ :: es => 1 + drScans es
  | .drScan32 _ _ :: es => 1 + drScans es
  | _ :: es => drScans es

/-- The idle clocks among some events. -/
def idleClocks : List TransportEvent → Nat
  | [] => 0
  | .idle n :: es => n + idleClocks es
  | _ :: es => idleClocks es

/-- The TAR writes among the events of a `mem_write` (R248): the write scans at sub-address 0b01, and
the request bytes 0x8B. (A SELECT write scans sub-address 0b10.) -/
def tarWrites : List TransportEvent → Nat
  | [] => 0
  | .drScan35 tdi _ :: es => (if tdi.extractLsb' 0 3 = 0b010#3 then 1 else 0) + tarWrites es
  | .swdSend8 v :: es => (if v = 0x8B#8 then 1 else 0) + tarWrites es
  | _ :: es => tarWrites es

/-! ### Invariants -/

/-- What every step keeps: one cache pair per AP entry (R20), a configured Debug Port active unless the
session is in the fatal state (R22, R331), an IR cache that holds a code of R81, and the SWD record's
unused IR cache as reset leaves it (R24). -/
def State.Inv (s : State) : Prop :=
  s.mem.length = s.cfg.aps.length ∧
  (s.fatal = none → s.cfg.has s.active = true) ∧
  (∀ v, s.dpJtag.ir = some v → ∃ c, v = irValue c) ∧
  s.dpSwd.ir = none

/-- What an observer of the transport knows of the target: the last IR scanned, and the last SELECT
value written over each transport; `selecting` while a SWD SELECT write awaits its data phase. -/
structure Observer where
  ir : Option Word4
  selectJtag : Option Word32
  selectSwd : Option Word32
  selecting : Bool
  deriving DecidableEq, Repr

/-- What one event tells the observer (R81, R82, R85, R92). -/
def Observer.see (w : Observer) : TransportEvent → Observer
  | .irScan v => { w with ir := some v }
  | .drScan35 tdi _ =>
    if w.ir = some 0b1010#4 ∧ tdi.extractLsb' 0 3 = 0b100#3 then
      { w with selectJtag := some (tdi.extractLsb' 3 32) }
    else w
  | .swdSend8 v => { w with selecting := v == 0xB1#8 }
  | .swdSend32 v => if w.selecting then { w with selectSwd := some v, selecting := false } else w
  | _ => w

/-- What a trace tells an observer who knew nothing before it. -/
def observe (es : List TransportEvent) : Observer := es.foldl Observer.see ⟨none, none, none, false⟩

/-- The engine's transport caches are true of its own trace (R23, R24): what they hold is what the
observer saw last; and a JTAG SELECT value is held only together with an IR code. For sessions whose
`DP_SELECT_RESET` is none (R281: with `some v` the engine believes `v` "without having written it"). -/
def State.CachesTrue (s : State) : Prop :=
  s.cfg.dpSelectReset = none ∧
  (∀ c, s.dpJtag.ir = some c → (observe s.trace).ir = some c) ∧
  (∀ v, s.dpJtag.currentSelect = some v → (observe s.trace).selectJtag = some v) ∧
  (∀ v, s.dpSwd.currentSelect = some v → (observe s.trace).selectSwd = some v) ∧
  (s.dpJtag.ir = none → s.dpJtag.currentSelect = none)

/-- A state without what captured bits decide when the CSW seed is `csw_reset` (R41): `last_ack`, the
data and compare outcome of responses, and the transport's own input. -/
def State.blind (s : State) : State :=
  { s with
    lastAck := none
    responses := s.responses.map fun r => ⟨r.status, r.data.map fun _ => 0#32, true⟩
    captures := []
    draws := 0 }

/-! ### The language of the wire -/

/-- A scan of the data register an IR code selects (R81, R98); no access scans under BYPASS (R191). -/
def scanUnder : IrCode → TransportEvent → Bool
  | .idcode, .drScan32 tdi _ => tdi == 0#32
  | .abort, .drScan35 tdi _ => tdi.extractLsb' 0 3 == 0#3
  | .dpacc, .drScan35 _ _ => true
  | .apacc, .drScan35 _ _ => true
  | _, _ => false

/-- JTAG traffic that is a sequence of whole accesses and idle clocks, from an IR cache on (R180): each
access scans the IR exactly when its class is not the one in force, then repeats one scan of the
register that class selects, then settles. -/
inductive JtagTraffic (cfg : Params) : Option Word4 → List TransportEvent → Prop where
  | done (ir : Option Word4) : JtagTraffic cfg ir []
  | idle (ir : Option Word4) (n : Nat) (es : List TransportEvent) :
      JtagTraffic cfg ir es → JtagTraffic cfg ir (.idle n :: es)
  | access (ir : Option Word4) (c : IrCode) (scan : TransportEvent) (n : Nat)
      (es : List TransportEvent) :
      scanUnder c scan = true → 0 < n → JtagTraffic cfg (some (irValue c)) es →
      JtagTraffic cfg ir (jtagEvents cfg ir c scan n ++ es)

/-- SWD traffic that is a sequence of whole packets and idle clocks (R210). -/
inductive SwdTraffic (cfg : Params) : List TransportEvent → Prop where
  | done : SwdTraffic cfg []
  | idle (n : Nat) (es : List TransportEvent) : SwdTraffic cfg es → SwdTraffic cfg (.idle n :: es)
  | read (apndp : Bool) (a : BitVec 2) (cmp : Cmp 32) (es : List TransportEvent) :
      SwdTraffic cfg es → SwdTraffic cfg (readPacket cfg apndp a cmp ++ es)
  | write (apndp : Bool) (a : BitVec 2) (v : Word32) (es : List TransportEvent) :
      SwdTraffic cfg es → SwdTraffic cfg (writePacket cfg apndp a v ++ es)

end Sys2Proof.Machine
end

