-- ==== Sys2Proof/Certificates/Slice0/Obligations.lean ====
section
/-! DEFINITION. The statements for the provers. A statement that gives a next state whole
(`exec i s = .next t`) is the result, the frame and the completion of its instruction at once: every
field that `t` does not name is that of `s`. The engine holds no memory (R62), so no statement has bytes
to frame; `cfg`, `port` and the caches of every other AP and Debug Port are framed in that way. -/

section

open Sys2Proof Sys2Proof.Machine

/-! ### Reset and the step -/

/-- R330: what reset leaves, under every configuration. `State.reset` is this under configuration CFG. -/
def Obligations.ResetValues : Prop :=
  ∀ c : Params,
    (State.resetWith c).pc = 0 ∧
    (State.resetWith c).active = c.defaultDp ∧
    (∀ k, c.has k = true →
      (State.resetWith c).dp k = ⟨c.dpSelectReset, none, false⟩) ∧
    (∀ (i : Nat) (ap : ApConfig), c.aps[i]? = some ap → ap.cls = .memAp →
      (State.resetWith c).mem[i]? = some ⟨0x00000000#32, none⟩) ∧
    (State.resetWith c).fatal =
      (if c.hasJtagDp = true ∨ c.hasSwdDp = true then none else some .protocolMisuse) ∧
    (State.resetWith c).lastAck = none ∧
    (State.resetWith c).trace = []

/-- A step takes the next item of the command port, decodes it and runs it (log entry 3). An empty port
leaves the engine idle; an item that holds no instruction is refused (log entry 23). -/
def Obligations.StepRunsDecoded : Prop :=
  ∀ s : State,
    (s.port = [] → step s = .next s) ∧
    ∀ p ps, s.port = p :: ps →
      (∀ i, decode p = .ok i → step s = exec i { s with port := ps }) ∧
      (∀ e, decode p = .error e → step s = .refused (.undecodable e))

/-- Words written out from R81, R82, R85, R88 and lines from R99, with the instruction each stands for.
0x280000002 is `(0x50000000 << 3) | (0b01 << 1) | 0`. -/
def Obligations.SampleWordsDecode : Prop :=
  decode ⟨.jtagIr4, [0x0A#8]⟩ = .ok .irDpacc ∧
  decode ⟨.jtagIr4, [0x0F#8]⟩ = .ok .irBypass ∧
  decode ⟨.jtagDr35, [0x02#8, 0x00#8, 0x00#8, 0x80#8, 0x02#8]⟩ =
    .ok (.drAcc35 0x50000000#32 0b01#2 false) ∧
  decode ⟨.jtagDr32, [0#8, 0#8, 0#8, 0#8]⟩ = .ok .drIdcode32 ∧
  decode ⟨.swdRequest8, [0xA5#8]⟩ = .ok .swdDpRA00 ∧
  decode ⟨.swdRequest8, [0xB1#8, 0xF0#8, 0x00#8, 0x00#8, 0x01#8]⟩ = .ok (.swdDpWA10 0x010000F0#32) ∧
  decode ⟨.swdRequest8, [0x9F#8]⟩ = .ok .swdApRA11 ∧
  decode ⟨.command, ascii "write_dp CTRL_STAT, 0x50000000"⟩ =
    .ok (.writeDp (.name .ctrlStat) 0x50000000#32 {}) ∧
  decode ⟨.command, ascii "read_ap 0xFC, attempts=2"⟩ = .ok (.readAp (some 0xFC#32) { attempts := 2 }) ∧
  decode ⟨.command, ascii "set_dp swd"⟩ = .ok (.setDp .swd)

/-- Decode and encode agree on every well-formed instruction, each operand at every value. MODEL'S CHOICE
of the byte form of a command (log entries 4 and 5). -/
def Obligations.DecodeOfEncode : Prop :=
  ∀ i : Instr, i.wf = true → decode (encode i) = .ok i

/-- The encoding of the wire frames is exact: a port item that decodes to a frame is its encoding. -/
def Obligations.EncodeOfDecodedFrame : Prop :=
  ∀ (p : PortItem) (i : Instr), decode p = .ok i → i.isCommand = false → encode i = p

/-- What the decoder answers is well-formed. -/
def Obligations.DecodedIsWellFormed : Prop :=
  ∀ (p : PortItem) (i : Instr), decode p = .ok i → i.wf = true

/-! ### Wire values -/

/-- R85: the eight bits of the request byte, and the 16 SWD instructions stored with it. -/
def Obligations.RequestByteBits : Prop :=
  ∀ (apndp rnw : Bool) (a : BitVec 2) (v : Word32),
    (swdRequest apndp rnw a).getLsbD 0 = true ∧
    (swdRequest apndp rnw a).getLsbD 1 = apndp ∧
    (swdRequest apndp rnw a).getLsbD 2 = rnw ∧
    (swdRequest apndp rnw a).getLsbD 3 = a.getLsbD 0 ∧
    (swdRequest apndp rnw a).getLsbD 4 = a.getLsbD 1 ∧
    (swdRequest apndp rnw a).getLsbD 5 = (apndp ^^ rnw ^^ a.getLsbD 0 ^^ a.getLsbD 1) ∧
    (swdRequest apndp rnw a).getLsbD 6 = false ∧
    (swdRequest apndp rnw a).getLsbD 7 = true ∧
    (encode (swdReadInstr apndp a)).bytes = [swdRequest apndp true a] ∧
    (encode (swdWriteInstr apndp a v)).bytes.head? = some (swdRequest apndp false a)

/-- R183's property: the fields of the 35-bit shift-in value. -/
def Obligations.ShiftInFields : Prop :=
  ∀ (data : Word32) (a : BitVec 2) (rnw : Bool),
    (drValue data a rnw).extractLsb' 3 32 = data ∧
    (drValue data a rnw).extractLsb' 1 2 = a ∧
    (drValue data a rnw).getLsbD 0 = rnw ∧
    drValue data a rnw = data ++ a ++ BitVec.ofBool rnw

/-- R90: both parities are even. The ones of the request among bits 1 to 5, and the ones of the data with
its parity bit, are even in number; and the packet that carries the data drives that bit after it. -/
def Obligations.ParitiesEven : Prop :=
  (∀ (apndp rnw : Bool) (a : BitVec 2),
    ((List.range 5).countP fun i => (swdRequest apndp rnw a).getLsbD (i + 1)) % 2 = 0) ∧
  (∀ v : Word32, (((List.range 32).countP fun i => v.getLsbD i) + (xorFold v).toNat) % 2 = 0) ∧
  (∀ (apndp : Bool) (a : BitVec 2) (v : Word32) (cmp : Cmp 32) (s : State),
    ∃ es fs, (swdPacket apndp false a v cmp s).1.trace =
      s.trace ++ es ++ [.swdSend32 v, .swdSend1 (xorFold v)] ++ fs)

/-- R91, R189 and R190: what the widened compare of a 35-bit scan says of the capture. With the check
off it compares the data alone; with the check on the acknowledge too, but for `NoCmp`. First the compare
itself, at every width (R12). -/
def Obligations.WidenedCompare : Prop :=
  (∀ (n : Nat) (x : BitVec n) (d : Cmp n), matchCmp x d = true ↔ (x ^^^ d.exp) &&& d.mask = 0#n) ∧
  ∀ (cfg : Params) (cmp : Cmp 32) (c : Word35),
    (cfg.readAckWidth = .zero →
      widenCmp cfg cmp = ⟨cmp.exp.setWidth 35 <<< 3, cmp.mask.setWidth 35 <<< 3⟩ ∧
      matchCmp c (widenCmp cfg cmp) = matchCmp (captureData c) cmp) ∧
    (cfg.readAckWidth = .three → cmp ≠ noCmp 32 →
      widenCmp cfg cmp = ⟨cmp.exp.setWidth 35 <<< 3 ||| cfg.jtagAckExpected.setWidth 35,
        cmp.mask.setWidth 35 <<< 3 ||| 0b111#35⟩ ∧
      matchCmp c (widenCmp cfg cmp) =
        (matchCmp (captureData c) cmp && captureAck c == cfg.jtagAckExpected)) ∧
    widenCmp cfg (noCmp 32) = noCmp 35

/-! ### Operands -/

/-- R122: what a DP register reference resolves to. -/
def Obligations.RegisterResolution : Prop :=
  (∀ (k : Transport) (read : Bool) (n : DpName),
    resolveDp k read (.name n) =
      if k = .jtag ∧ (n = .wcr ∨ n = .resend) then none else some n) ∧
  (∀ (k : Transport) (read : Bool) (d : Word32),
    (d.extractLsb' 0 2 ≠ 0#2 ∨ 0xC < d.toNat) → resolveDp k read (.addr d) = none) ∧
  (∀ k : Transport,
    resolveDp k true (.addr 0x0#32) = some .idcode ∧
    resolveDp k true (.addr 0x4#32) = some .ctrlStat ∧
    resolveDp k true (.addr 0xC#32) = some .rdbuff ∧
    resolveDp k false (.addr 0x0#32) = some .abort ∧
    resolveDp k false (.addr 0x4#32) = some .ctrlStat ∧
    resolveDp k false (.addr 0x8#32) = some .select ∧
    resolveDp k false (.addr 0xC#32) = some .rdbuff) ∧
  resolveDp .jtag true (.addr 0x8#32) = some .select ∧
  resolveDp .swd true (.addr 0x8#32) = some .resend ∧
  (∀ (k : Transport) (read : Bool) (d : Word32), resolveDp k read (.addr d) ≠ some .wcr) ∧
  (∀ (k : Transport) (read : Bool) (t : Token), resolveDp k read (.other t) = none)

/-- R63, R240 and R282: which entry of `APS` an AP address falls under, and which one an AP reference names.
The owner of an address is the first entry whose window holds it. An index names that entry, a name the
first entry of that name; a MEM-AP command finds it where its class is MemAP. (Of windows that overlap and
of names that repeat R282 says that the first wins: log entry 25. That the class is asked only of the entry
found is DEDUCED: log entry 14.) -/
def Obligations.OwnerIsFirstWindow : Prop :=
  ∀ cfg : Params,
    (∀ (a : Word32) (i : Nat) (ap : ApConfig), ownerOf cfg a = some (i, ap) ↔
      cfg.aps[i]? = some ap ∧ ap.base.extractLsb' 8 24 = a.extractLsb' 8 24 ∧
      ∀ j < i, ∀ ap', cfg.aps[j]? = some ap' → ap'.base.extractLsb' 8 24 ≠ a.extractLsb' 8 24) ∧
    (∀ a : Word32,
      ownerOf cfg a = none ↔ ∀ ap ∈ cfg.aps, ap.base.extractLsb' 8 24 ≠ a.extractLsb' 8 24) ∧
    (∀ (j i : Nat) (ap : ApConfig),
      findAp cfg (.index j) = some (i, ap) ↔ i = j ∧ cfg.aps[j]? = some ap) ∧
    (∀ (n : Token) (i : Nat) (ap : ApConfig), findAp cfg (.name n) = some (i, ap) ↔
      cfg.aps[i]? = some ap ∧ ap.name = n ∧
      ∀ j < i, ∀ ap', cfg.aps[j]? = some ap' → ap'.name ≠ n) ∧
    ∀ (r : ApRef) (i : Nat) (ap : ApConfig),
      memApOf cfg r = some (i, ap) ↔ findAp cfg r = some (i, ap) ∧ ap.cls = .memAp

/-- R168: the AP wait states. -/
def Obligations.ApWaitStates : Prop :=
  ∀ (cfg : Params) (a : Word32),
    (ownerOf cfg a = none → apWait cfg a = 0) ∧
    ∀ i ap, ownerOf cfg a = some (i, ap) →
      apWait cfg a = ap.apregAccessWait +
        (if ap.cls = .memAp ∧ a.extractLsb' 0 8 ∈ [0x0C#8, 0x10#8, 0x14#8, 0x18#8, 0x1C#8]
          then ap.apmemAccessWait else 0)

/-- R244 and R245: byte lanes in and out, and that extraction undoes insertion, but for the halfword at
`a mod 4 = 3`, of which the low byte is left. -/
def Obligations.ByteLanes : Prop :=
  ∀ a v : Word32,
    getWData .w32 a v = v ∧
    getWData .w16 a v = (v &&& 0xFFFF#32) <<< (8 * (a.toNat % 4)) ∧
    getWData .w8 a v = (v &&& 0xFF#32) <<< (8 * (a.toNat % 4)) ∧
    getRData .w32 a v = v ∧
    getRData .w16 a v = (v >>> (8 * (a.toNat % 4))) &&& 0xFFFF#32 ∧
    getRData .w8 a v = (v >>> (8 * (a.toNat % 4))) &&& 0xFF#32 ∧
    getRData .w8 a (getWData .w8 a v) = v &&& 0xFF#32 ∧
    (a.toNat % 4 ≠ 3 → getRData .w16 a (getWData .w16 a v) = v &&& 0xFFFF#32) ∧
    (a.toNat % 4 = 3 → getRData .w16 a (getWData .w16 a v) = v &&& 0xFF#32)

/-- R246 with R247: the TAR cache after one DRW access. The next address is kept exactly when it lies in
the 1KB block of the address itself, counted without the wrap of R10. -/
def Obligations.TarAdvance : Prop :=
  ∀ (csw t : Word32) (w : Width),
    nextTar csw none w = none ∧
    (csw.extractLsb' 4 2 = 0b00#2 → nextTar csw (some t) w = some t) ∧
    (csw.extractLsb' 4 2 = 0b01#2 →
      nextTar csw (some t) w =
        if (t.toNat + (widthBytes w).toNat) / 1024 = t.toNat / 1024 then some (t + widthBytes w)
        else none) ∧
    (csw.extractLsb' 4 2 = 0b10#2 →
      nextTar csw (some t) w =
        if (t.toNat + 4) / 1024 = t.toNat / 1024 then some (t + 4#32) else none) ∧
    (csw.extractLsb' 4 2 = 0b11#2 → nextTar csw (some t) w = none)

/-- R242, with R94 and R246: the width that a number means, its SIZE encoding, its mask and its bytes. A
width other than 8, 16 and 32 acts as 32 in every MEM-AP command, whatever it answers. -/
def Obligations.OtherWidthsAre32 : Prop :=
  (normWidth 8 = .w8 ∧ normWidth 16 = .w16 ∧ normWidth 32 = .w32) ∧
  (sizeEnc .w8 = 0#3 ∧ sizeEnc .w16 = 1#3 ∧ sizeEnc .w32 = 2#3) ∧
  (wMask .w8 = 0xFF#32 ∧ wMask .w16 = 0xFFFF#32 ∧ wMask .w32 = 0xFFFFFFFF#32) ∧
  (widthBytes .w8 = 1#32 ∧ widthBytes .w16 = 2#32 ∧ widthBytes .w32 = 4#32) ∧
  ∀ (w : Nat) (s : State), w ≠ 8 → w ≠ 16 →
    normWidth w = .w32 ∧
    (∀ r, exec (.memSetSize r w) s = exec (.memSetSize r 32) s) ∧
    (∀ r a o f, exec (.memRead r a w o f) s = exec (.memRead r a 32 o f) s) ∧
    (∀ r a v o f, exec (.memWrite r a v w o f) s = exec (.memWrite r a v 32 o f) s) ∧
    (∀ r a v o f, exec (.memWriteRead r a v w o f) s = exec (.memWriteRead r a v 32 o f) s)

/-! ### How commands end -/

/-- R292 to R296, R298, R300: a command raises the fatal error the checks of R300 find first, or none; a
fatal command emits nothing and changes nothing but `fatal` and `pc`, its response delivered. THE MODEL'S
READING, DEDUCED: that a composition has both its attempt counts checked before its write part (log entry
13), and how an AP reference finds its entry (log entry 14); `fatalCheck` rests on both. -/
def Obligations.FatalErrors : Prop :=
  ∀ (i : Instr) (s : State), i.isCommand = true → s.fatal = none →
    ∃ t, exec i s = .next t ∧ t.fatal = fatalCheck s i ∧
      ∀ c, fatalCheck s i = some c →
        t = s.fataled c

/-- R299: in the fatal state every command is refused and changes nothing but `pc`; no step clears it. -/
def Obligations.RefusedUntilReset : Prop :=
  (∀ (i : Instr) (s : State), i.isCommand = true → s.fatal ≠ none →
    exec i s = .next (s.answered ⟨.refused, none, true⟩)) ∧
  (∀ (s t : State) (c : FatalCode), s.fatal = some c → step s = .next t → t.fatal = some c)

/-- R123: a DP command on a register that is unknown, or of the wrong direction, is skipped; it changes
nothing but `pc`, its response delivered. -/
def Obligations.SkippedCommands : Prop :=
  ∀ s : State, s.fatal = none →
    (∀ r o, 0 < o.attempts → resolveDp s.active true r = none →
      exec (.readDp r o) s = .next (s.answered ⟨.skip .unknownRegister, none, true⟩)) ∧
    (∀ r v o, 0 < o.attempts → resolveDp s.active false r = none →
      exec (.writeDp r v o) s = .next (s.answered ⟨.skip .unknownRegister, none, true⟩)) ∧
    (∀ r o n, 0 < o.attempts → resolveDp s.active true r = some n →
      (n = .abort ∨ s.active = .swd ∧ n = .select) →
      exec (.readDp r o) s = .next (s.answered ⟨.skip .readOfWriteOnly, none, true⟩)) ∧
    (∀ r v o n, 0 < o.attempts → resolveDp s.active false r = some n →
      (n = .idcode ∨ n = .rdbuff ∨ n = .resend) →
      exec (.writeDp r v o) s = .next (s.answered ⟨.skip .writeToReadOnly, none, true⟩))

/-- R21, R22, R40, R311, R315: what no command does: every command advances `pc` by one and answers once;
no instruction changes the configuration or takes an event back; only `set_dp` changes `active`. -/
def Obligations.CommandsCounted : Prop :=
  (∀ (i : Instr) (s : State), i.isCommand = true →
    ∃ t r, exec i s = .next t ∧ t.pc = s.pc + 1 ∧ t.responses = s.responses ++ [r]) ∧
  (∀ (i : Instr) (s t : State), exec i s = .next t →
    t.cfg = s.cfg ∧ (∃ es, t.trace = s.trace ++ es) ∧ t.port = s.port ∧
    ((∀ k, i ≠ .setDp k) → t.active = s.active) ∧
    (i.isCommand = false → t.pc = s.pc ∧ t.responses = s.responses))

/-! ### The DP engine -/

/-- R125: `read_dp IDCODE`; `c` is the compare descriptor of its options (R124). -/
def Obligations.ReadDpIdcode : Prop :=
  ∀ (s : State) (r : DpRef) (o : ReadOpts) (c : Cmp 32), s.fatal = none → 0 < o.attempts →
    c = (match o.exp with | some e => ⟨e, o.mask⟩ | none => ⟨0#32, 0#32⟩) →
    resolveDp s.active true r = some .idcode →
    (s.active = .jtag →
      exec (.readDp r o) s = .next (State.answered
        { s.after (jtagEvents s.cfg s.dpJtag.ir .idcode (.drScan32 0#32 c) o.attempts)
            o.attempts with
          dpJtag := { s.dpJtag with ir := some 0b1110#4 } }
        (okRead ((s.captureAt (o.attempts - 1)).setWidth 32)
          (matchCmp ((s.captureAt (o.attempts - 1)).setWidth 32) c)))) ∧
    (s.active = .swd →
      exec (.readDp r o) s = .next (State.answered (s.swdDpRead none 0b00#2 o.attempts c)
        (s.swdAnswer none o.attempts c)))

/-- R126: `read_dp CTRL_STAT`; `c` as in R124. -/
def Obligations.ReadDpCtrlStat : Prop :=
  ∀ (s : State) (r : DpRef) (o : ReadOpts) (c : Cmp 32), s.fatal = none → 0 < o.attempts →
    c = (match o.exp with | some e => ⟨e, o.mask⟩ | none => ⟨0#32, 0#32⟩) →
    resolveDp s.active true r = some .ctrlStat →
    (s.active = .jtag →
      exec (.readDp r o) s = .next (State.answered (s.jtagRead2 0b01#2 o.attempts c)
        (jtagAnswer s.cfg (s.captureAt (1 + (o.attempts - 1))) c))) ∧
    (s.active = .swd →
      exec (.readDp r o) s = .next (State.answered
        (s.swdDpRead (dpBankWrite s.dpSwd.currentSelect 0#32) 0b01#2 o.attempts c)
        (s.swdAnswer (dpBankWrite s.dpSwd.currentSelect 0#32) o.attempts c)))

/-- R127: `read_dp SELECT`; write-only on SWD; `c` as in R124. -/
def Obligations.ReadDpSelect : Prop :=
  ∀ (s : State) (r : DpRef) (o : ReadOpts) (c : Cmp 32), s.fatal = none → 0 < o.attempts →
    c = (match o.exp with | some e => ⟨e, o.mask⟩ | none => ⟨0#32, 0#32⟩) →
    resolveDp s.active true r = some .select →
    (s.active = .jtag →
      exec (.readDp r o) s = .next (State.answered (s.jtagRead2 0b10#2 o.attempts c)
        (jtagAnswer s.cfg (s.captureAt (1 + (o.attempts - 1))) c))) ∧
    (s.active = .swd →
      exec (.readDp r o) s = .next (s.answered ⟨.skip .readOfWriteOnly, none, true⟩))

/-- R128: `read_dp RDBUFF`; `c` as in R124. -/
def Obligations.ReadDpRdbuff : Prop :=
  ∀ (s : State) (r : DpRef) (o : ReadOpts) (c : Cmp 32), s.fatal = none → 0 < o.attempts →
    c = (match o.exp with | some e => ⟨e, o.mask⟩ | none => ⟨0#32, 0#32⟩) →
    resolveDp s.active true r = some .rdbuff →
    (s.active = .jtag →
      exec (.readDp r o) s = .next (State.answered (s.jtagRdbuff o.attempts c)
        (jtagAnswer s.cfg (s.captureAt (o.attempts - 1)) c))) ∧
    (s.active = .swd →
      exec (.readDp r o) s = .next (State.answered (s.swdDpRead none 0b11#2 o.attempts c)
        (s.swdAnswer none o.attempts c)))

/-- R129: `read_dp WCR`; unknown on JTAG; `c` as in R124. -/
def Obligations.ReadDpWcr : Prop :=
  ∀ (s : State) (o : ReadOpts) (c : Cmp 32), s.fatal = none → 0 < o.attempts →
    c = (match o.exp with | some e => ⟨e, o.mask⟩ | none => ⟨0#32, 0#32⟩) →
    (s.active = .jtag →
      exec (.readDp (.name .wcr) o) s = .next (s.answered ⟨.skip .unknownRegister, none, true⟩)) ∧
    (s.active = .swd →
      exec (.readDp (.name .wcr) o) s = .next (State.answered
        (s.swdDpRead (dpBankWrite s.dpSwd.currentSelect 1#32) 0b01#2 o.attempts c)
        (s.swdAnswer (dpBankWrite s.dpSwd.currentSelect 1#32) o.attempts c)))

/-- R130: `read_dp RESEND`; unknown on JTAG; `c` as in R124. -/
def Obligations.ReadDpResend : Prop :=
  ∀ (s : State) (r : DpRef) (o : ReadOpts) (c : Cmp 32), s.fatal = none → 0 < o.attempts →
    c = (match o.exp with | some e => ⟨e, o.mask⟩ | none => ⟨0#32, 0#32⟩) →
    (s.active = .jtag →
      exec (.readDp (.name .resend) o) s =
        .next (s.answered ⟨.skip .unknownRegister, none, true⟩)) ∧
    (s.active = .swd → resolveDp .swd true r = some .resend →
      exec (.readDp r o) s = .next (State.answered (s.swdDpRead none 0b10#2 o.attempts c)
        (s.swdAnswer none o.attempts c)))

/-- R131: `write_dp SELECT`, always issued, the cache following it. -/
def Obligations.WriteDpSelect : Prop :=
  ∀ (s : State) (r : DpRef) (v : Word32) (o : WriteOpts), s.fatal = none → 0 < o.attempts →
    resolveDp s.active false r = some .select →
    (s.active = .jtag →
      exec (.writeDp r v o) s = .next (State.answered
        { s.jtagWritten .dpacc 0b10#2 v o.attempts with
          dpJtag := ⟨some v, some 0b1010#4, s.dpJtag.orunDetect⟩ }
        ⟨.ok, none, true⟩)) ∧
    (s.active = .swd →
      exec (.writeDp r v o) s = .next (State.answered
        { s.swdDpWritten none 0b10#2 v o.attempts with
          dpSwd := { s.dpSwd with currentSelect := some v } }
        ⟨.ok, none, true⟩))

/-- R132: `write_dp ABORT`, under its own IR code on JTAG. -/
def Obligations.WriteDpAbort : Prop :=
  ∀ (s : State) (r : DpRef) (v : Word32) (o : WriteOpts), s.fatal = none → 0 < o.attempts →
    resolveDp s.active false r = some .abort →
    (s.active = .jtag →
      exec (.writeDp r v o) s =
        .next (State.answered (s.jtagWritten .abort 0b00#2 v o.attempts) ⟨.ok, none, true⟩)) ∧
    (s.active = .swd →
      exec (.writeDp r v o) s =
        .next (State.answered (s.swdDpWritten none 0b00#2 v o.attempts) ⟨.ok, none, true⟩))

/-- R133: `write_dp CTRL_STAT`; `orun_detect` becomes bit 0 of the value (R25). -/
def Obligations.WriteDpCtrlStat : Prop :=
  ∀ (s : State) (r : DpRef) (v : Word32) (o : WriteOpts), s.fatal = none → 0 < o.attempts →
    resolveDp s.active false r = some .ctrlStat →
    (s.active = .jtag →
      exec (.writeDp r v o) s = .next (State.answered
        { s.jtagWritten .dpacc 0b01#2 v o.attempts with
          dpJtag := ⟨s.dpJtag.currentSelect, some 0b1010#4, v.getLsbD 0⟩ }
        ⟨.ok, none, true⟩)) ∧
    (s.active = .swd →
      exec (.writeDp r v o) s = .next (State.answered
        { s.swdDpWritten (dpBankWrite s.dpSwd.currentSelect 0#32) 0b01#2 v o.attempts with
          dpSwd := ⟨selectAfter s.dpSwd.currentSelect (dpBankWrite s.dpSwd.currentSelect 0#32),
            s.dpSwd.ir, v.getLsbD 0⟩ }
        ⟨.ok, none, true⟩))

/-- R134: `write_dp WCR`; unknown on JTAG. -/
def Obligations.WriteDpWcr : Prop :=
  ∀ (s : State) (v : Word32) (o : WriteOpts), s.fatal = none → 0 < o.attempts →
    (s.active = .jtag →
      exec (.writeDp (.name .wcr) v o) s =
        .next (s.answered ⟨.skip .unknownRegister, none, true⟩)) ∧
    (s.active = .swd →
      exec (.writeDp (.name .wcr) v o) s = .next (State.answered
        (s.swdDpWritten (dpBankWrite s.dpSwd.currentSelect 1#32) 0b01#2 v o.attempts)
        ⟨.ok, none, true⟩))

/-- R139: `write_read_dp` is `write_dp` then `read_dp` of the same register, with the written value as the
default expectation; it counts and answers once, with the write's status unless that is OK. -/
def Obligations.WriteReadDpComposes : Prop :=
  ∀ (s : State) (r : DpRef) (v : Word32) (o : WROpts), s.fatal = none →
    0 < o.wAttempts → 0 < o.rAttempts →
    ∃ t u rw rr,
      exec (.writeDp r v { attempts := o.wAttempts }) s = .next t ∧
      t.responses = s.responses ++ [rw] ∧
      exec (.readDp r { attempts := o.rAttempts, exp := some (o.exp.getD v), mask := o.mask }) t =
        .next u ∧
      u.responses = t.responses ++ [rr] ∧
      exec (.writeReadDp r v o) s = .next { u with
        pc := s.pc + 1
        responses := s.responses ++
          [⟨if rw.status ≠ .ok then rw.status else rr.status, rr.data, rr.matched⟩] }

/-! ### The AP engine -/

/-- R161: on which SELECT value an AP access writes SELECT first, and the cache afterwards; then a further
AP access of the same `(apsel, bank)` writes it no more. -/
def Obligations.SelectWrittenOnce : Prop :=
  ∀ (s : State) (a b : Word32),
    s.apSelect a =
      (match (s.dp s.active).currentSelect with
        | none => some (a &&& 0xFF0000F0#32)
        | some c =>
          if c &&& (if s.active = .jtag then 0xFF0000F0#32 else 0xFF0000F1#32) ≠ a &&& 0xFF0000F0#32
          then some (a &&& 0xFF0000F0#32) else none) ∧
    (a &&& 0xFF0000F0#32 = b &&& 0xFF0000F0#32 → s.fatal = none →
      (∀ t, exec (.setApSelect (some a)) s = .next t → t.apSelect b = none) ∧
      (∀ o t, 0 < o.attempts → exec (.readAp (some a) o) s = .next t → t.apSelect b = none) ∧
      (∀ v o t, 0 < o.attempts → exec (.writeAp (some a) v o) s = .next t → t.apSelect b = none))

/-- R163: `read_ap`. The junk read is issued once, the attempts repeat the RDBUFF read under `c` (R124); R169
follows. -/
def Obligations.ReadAp : Prop :=
  ∀ (s : State) (o : ReadOpts) (c : Cmp 32), s.fatal = none → 0 < o.attempts →
    c = (match o.exp with | some e => ⟨e, o.mask⟩ | none => ⟨0#32, 0#32⟩) →
    exec (.readAp none o) s = .next (s.fataled .missingContext) ∧
    ∀ a : Word32, exec (.readAp (some a) o) s =
      .next ((rawCoherence a none (s.apRead a o.attempts c)).answered
        (okRead (s.apReadResult a o.attempts c).data
          (s.apReadResult a o.attempts c).matched))

/-- R165 and R166: `write_ap`; R169 follows. -/
def Obligations.WriteAp : Prop :=
  ∀ (s : State) (v : Word32) (o : WriteOpts), s.fatal = none → 0 < o.attempts →
    exec (.writeAp none v o) s = .next (s.fataled .missingContext) ∧
    ∀ a : Word32, exec (.writeAp (some a) v o) s =
      .next ((rawCoherence a (some v) (s.apWritten a v o.attempts)).answered ⟨.ok, none, true⟩)

/-- R167: `set_ap_select`, a SELECT write or nothing. -/
def Obligations.SetApSelect : Prop :=
  ∀ (s : State) (a : Word32), s.fatal = none →
    exec (.setApSelect none) s = .next (s.fataled .missingContext) ∧
    exec (.setApSelect (some a)) s = .next ((s.apSelected a).answered ⟨.ok, none, true⟩) ∧
    (s.apSelect a = none →
      exec (.setApSelect (some a)) s = .next (s.answered ⟨.ok, none, true⟩))

/-- R169: what a raw access does to the MEM-AP caches of the address's owner, and to nothing else. -/
def Obligations.RawCoherence : Prop :=
  ∀ (a : Word32) (v : Option Word32) (s : State),
    (ownerOf s.cfg a = none → rawCoherence a v s = s) ∧
    ∀ i ap, ownerOf s.cfg a = some (i, ap) →
      (ap.cls ≠ .memAp → rawCoherence a v s = s) ∧
      (ap.cls = .memAp →
        (∀ x, v = some x → a.extractLsb' 0 8 = 0x00#8 →
          rawCoherence a v s = { s with mem := s.mem.set i ⟨x, (s.memAt i).currentTar⟩ }) ∧
        (∀ x, v = some x → a.extractLsb' 0 8 = 0x04#8 →
          rawCoherence a v s = { s with mem := s.mem.set i ⟨(s.memAt i).currentCsw, some x⟩ }) ∧
        (a.extractLsb' 0 8 ∈ [0x0C#8, 0x10#8, 0x14#8, 0x18#8, 0x1C#8] →
          rawCoherence a v s = { s with mem := s.mem.set i ⟨(s.memAt i).currentCsw, none⟩ }) ∧
        (a.extractLsb' 0 8 ∉ [0x0C#8, 0x10#8, 0x14#8, 0x18#8, 0x1C#8] →
          (v = none ∨ a.extractLsb' 0 8 ∉ [0x00#8, 0x04#8]) → rawCoherence a v s = s))

/-! ### The MEM-AP engine -/

/-- R241 and R251: `mem_set_size`. An unknown CSW cache is seeded by a dummy CSW read; CSW is written only
where SIZE differs, and what is written then differs in SIZE alone. -/
def Obligations.MemSetSize : Prop :=
  (∀ (csw : Word32) (enc : BitVec 3),
    (withSize csw enc).extractLsb' 0 3 = enc ∧
    (withSize csw enc).extractLsb' 3 29 = csw.extractLsb' 3 29) ∧
  ∀ (s : State) (r : ApRef) (w : Nat), s.fatal = none →
    (memApOf s.cfg r = none → exec (.memSetSize r w) s = .next (s.fataled .apOwnership)) ∧
    ∀ (i : Nat) (ap : ApConfig), s.mem.length = s.cfg.aps.length → memApOf s.cfg r = some (i, ap) →
    ((s.memAt i).currentCsw ≠ 0#32 → (s.memAt i).currentCsw.extractLsb' 0 3 = sizeEnc (normWidth w) →
      exec (.memSetSize r w) s = .next (s.answered ⟨.ok, none, true⟩)) ∧
    ((s.memAt i).currentCsw ≠ 0#32 → (s.memAt i).currentCsw.extractLsb' 0 3 ≠ sizeEnc (normWidth w) →
      exec (.memSetSize r w) s = .next (State.answered
        ((s.apWritten ap.base (withSize (s.memAt i).currentCsw (sizeEnc (normWidth w))) 1).setCsw i
          (withSize (s.memAt i).currentCsw (sizeEnc (normWidth w))))
        ⟨.ok, none, true⟩)) ∧
    ((s.memAt i).currentCsw = 0#32 →
      ∀ seed u, seed = (if s.cfg.cswSeedSource = .resetValue then ap.cswReset
          else (s.apReadResult ap.base 1 (noCmp 32)).data) →
        u = (s.apRead ap.base 1 (noCmp 32)).setCsw i seed →
        exec (.memSetSize r w) s = .next (State.answered
          (if seed.extractLsb' 0 3 = sizeEnc (normWidth w) then u
            else (u.apWritten ap.base (withSize seed (sizeEnc (normWidth w))) 1).setCsw i
              (withSize seed (sizeEnc (normWidth w))))
          ⟨.ok, none, true⟩))

/-- R243 and R252: `mem_set_addr`. -/
def Obligations.MemSetAddr : Prop :=
  ∀ (s : State) (r : ApRef) (a : Word32) (force : Bool), s.fatal = none →
    exec (.memSetAddr r none force) s = .next (s.fataled .missingContext) ∧
    (memApOf s.cfg r = none → exec (.memSetAddr r (some a) force) s = .next (s.fataled .apOwnership)) ∧
    ∀ (i : Nat) (ap : ApConfig), memApOf s.cfg r = some (i, ap) →
    (force = false → (s.memAt i).currentTar = some a →
      exec (.memSetAddr r (some a) force) s = .next (s.answered ⟨.ok, none, true⟩)) ∧
    ((force = true ∨ (s.memAt i).currentTar ≠ some a) →
      exec (.memSetAddr r (some a) force) s = .next (State.answered
        ((s.apWritten (ap.base + 0x04#32) a 1).setTar i (some a)) ⟨.ok, none, true⟩))

/-- R248 with R254: `mem_write`: size, address, the DRW write, the TAR cache, the latency. -/
def Obligations.MemWrite : Prop :=
  ∀ (s : State) (r : ApRef) (a v : Word32) (w : Nat) (o : WriteOpts) (force : Bool),
    s.fatal = none → 0 < o.attempts →
    exec (.memWrite r none v w o force) s = .next (s.fataled .missingContext) ∧
    (memApOf s.cfg r = none → exec (.memWrite r (some a) v w o force) s = .next (s.fataled .apOwnership)) ∧
    ∀ (s1 u : State) (i : Nat) (ap : ApConfig), memApOf s.cfg r = some (i, ap) →
    s1 = setAddr i ap a force (setSize i ap (normWidth w) s) →
    u = s1.apWritten (ap.base + 0x0C#32) (getWData (normWidth w) a v) o.attempts →
    exec (.memWrite r (some a) v w o force) s = .next (State.answered
      ((u.setTar i
        (if 1 < o.attempts ∧ (u.memAt i).currentCsw.extractLsb' 4 2 ≠ 0b00#2 then none
          else nextTar (u.memAt i).currentCsw (u.memAt i).currentTar (normWidth w))).after
        (idleEvents ap.latency) 0)
      ⟨.ok, none, true⟩)

/-- R249 with R255: `mem_read`: size, address, the DRW read with its compare moved to the lane, the TAR
cache, the latency; the response holds the lane. -/
def Obligations.MemRead : Prop :=
  ∀ (s : State) (r : ApRef) (a : Word32) (w : Nat) (o : ReadOpts) (force : Bool),
    s.fatal = none → 0 < o.attempts →
    exec (.memRead r none w o force) s = .next (s.fataled .missingContext) ∧
    (memApOf s.cfg r = none → exec (.memRead r (some a) w o force) s = .next (s.fataled .apOwnership)) ∧
    ∀ (s1 u : State) (i : Nat) (ap : ApConfig) (d : ReadResult) (c : Cmp 32),
    memApOf s.cfg r = some (i, ap) →
    c = (match o.exp with
      | some e => ⟨getWData (normWidth w) a e, getWData (normWidth w) a o.mask⟩
      | none => ⟨0#32, 0#32⟩) →
    s1 = setAddr i ap a force (setSize i ap (normWidth w) s) →
    u = s1.apRead (ap.base + 0x0C#32) o.attempts c →
    d = s1.apReadResult (ap.base + 0x0C#32) o.attempts c →
    exec (.memRead r (some a) w o force) s = .next (State.answered
      ((u.setTar i
        (nextTar (u.memAt i).currentCsw (u.memAt i).currentTar (normWidth w))).after
        (idleEvents ap.latency) 0)
      ⟨.ok, some (getRData (normWidth w) a d.data), d.matched⟩)

/-- R250: `mem_write_read` is `mem_write` then `mem_read` at the same address, width and `force`, with the
written value under the mask as the default expectation; it counts and answers once. -/
def Obligations.MemWriteReadComposes : Prop :=
  ∀ (s : State) (r : ApRef) (a : Option Word32) (v : Word32) (w : Nat) (o : WROpts) (force : Bool),
    s.fatal = none → 0 < o.wAttempts → 0 < o.rAttempts →
    ∃ t u rw rr,
      exec (.memWrite r a v w { attempts := o.wAttempts } force) s = .next t ∧
      t.responses = s.responses ++ [rw] ∧
      exec (.memRead r a w
        { attempts := o.rAttempts, exp := some (o.exp.getD (v &&& o.mask)), mask := o.mask } force) t =
        .next u ∧
      u.responses = t.responses ++ [rr] ∧
      exec (.memWriteRead r a v w o force) s = .next { u with
        pc := s.pc + 1
        responses := s.responses ++
          [⟨if rw.status ≠ .ok then rw.status else rr.status, rr.data, rr.matched⟩] }

/-- R256: how many TAR writes two `mem_write` commands emit together, on a seeded cache that does not hold
the first address: with ADDRINC off one at one address, two at two; with ADDRINC single or packed two at
one address, one at `A` and then `A + inc` in one 1KB block. -/
def Obligations.AddressCaching : Prop :=
  ∀ (s t u : State) (r : ApRef) (a b v x : Word32) (w : Nat) (i : Nat) (ap : ApConfig) (inc : Word32),
    s.fatal = none → memApOf s.cfg r = some (i, ap) → ap.base.extractLsb' 0 8 = 0#8 →
    (s.memAt i).currentCsw ≠ 0#32 → (s.memAt i).currentTar ≠ some a →
    withSize (s.memAt i).currentCsw (sizeEnc (normWidth w)) ≠ 0#32 →
    exec (.memWrite r (some a) v w {} false) s = .next t →
    exec (.memWrite r (some b) x w {} false) t = .next u →
    inc = (if (s.memAt i).currentCsw.extractLsb' 4 2 = 0b01#2 then widthBytes (normWidth w) else 4#32) →
    ((s.memAt i).currentCsw.extractLsb' 4 2 = 0b00#2 →
      tarWrites (u.trace.drop s.trace.length) = if a = b then 1 else 2) ∧
    ((s.memAt i).currentCsw.extractLsb' 4 2 ∈ [0b01#2, 0b10#2] →
      (b = a → tarWrites (u.trace.drop s.trace.length) = 2) ∧
      (b = a + inc → (a.toNat + inc.toNat) / 1024 = a.toNat / 1024 →
        tarWrites (u.trace.drop s.trace.length) = 1))

/-- R257: after a `mem_read` or `mem_write`, as before its DRW access, the SIZE of the CSW cache is that of
the access. -/
def Obligations.SizeInForce : Prop :=
  ∀ (s : State) (r : ApRef) (a : Word32) (w : Nat) (force : Bool) (i : Nat) (ap : ApConfig),
    s.fatal = none → s.mem.length = s.cfg.aps.length → memApOf s.cfg r = some (i, ap) →
    ((setAddr i ap a force (setSize i ap (normWidth w) s)).memAt i).currentCsw.extractLsb' 0 3 =
      sizeEnc (normWidth w) ∧
    (∀ o t, 0 < o.attempts → exec (.memRead r (some a) w o force) s = .next t →
      (t.memAt i).currentCsw.extractLsb' 0 3 = sizeEnc (normWidth w)) ∧
    (∀ v o t, 0 < o.attempts → exec (.memWrite r (some a) v w o force) s = .next t →
      (t.memAt i).currentCsw.extractLsb' 0 3 = sizeEnc (normWidth w))

/-! ### Session control -/

/-- R280: `set_dp`. -/
def Obligations.SetDp : Prop :=
  ∀ s : State, s.fatal = none →
    (s.cfg.hasJtagDp = true →
      exec (.setDp .jtag) s = .next (State.answered
        { s with active := .jtag, dpJtag := ⟨none, none, s.dpJtag.orunDetect⟩ } ⟨.ok, none, true⟩)) ∧
    (s.cfg.hasSwdDp = true →
      exec (.setDp .swd) s = .next (State.answered
        { s with active := .swd, dpSwd := { s.dpSwd with currentSelect := none } } ⟨.ok, none, true⟩)) ∧
    (∀ k, s.cfg.has k = false →
      exec (.setDp k) s = .next (s.fataled .protocolMisuse))

/-- R281: `reset_dp`. -/
def Obligations.ResetDp : Prop :=
  ∀ s : State, s.fatal = none →
    (s.active = .jtag →
      exec .resetDp s = .next (State.answered { s with dpJtag := ⟨s.cfg.dpSelectReset, none, false⟩ }
        ⟨.ok, none, true⟩)) ∧
    (s.active = .swd →
      exec .resetDp s = .next (State.answered
        { s with dpSwd := ⟨s.cfg.dpSelectReset, s.dpSwd.ir, false⟩ } ⟨.ok, none, true⟩))

/-! ### Wire frames as instructions (the model's reading: log entries 7 to 12, 24, 26) -/

/-- The five IR frames scan their code of R81 where the IR cache does not hold it, and the cache holds it
then. MODEL'S CHOICE that a frame is a step (log entry 7), and that BYPASS is one (log entry 9). -/
def Obligations.IrFrames : Prop :=
  ∀ (s : State) (v : Word4) (i : Instr), s.fatal = none → s.active = .jtag →
    (v, i) ∈ [(0x8#4, Instr.irAbort), (0xA#4, .irDpacc), (0xB#4, .irApacc), (0xE#4, .irIdcode),
      (0xF#4, .irBypass)] →
    exec i s = .next { s.after (if s.dpJtag.ir = some v then [] else [.irScan v]) 0 with
      dpJtag := { s.dpJtag with ir := some v } }

/-- The frame `DR_ACC35`: one scan, of data 0 where it reads (R82, R183), its settle delay, and what it
writes by the class it is sent under. That is the class in force where its DR has 35 bits (R98); else the
frame sets DPACC first. MODEL'S CHOICE of DPACC (log entry 26), of what the frame does to the caches (log
entry 8), and that no further delay follows it (log entry 7). -/
def Obligations.DrAcc35Frame : Prop :=
  ∀ (s t u : State) (data d : Word32) (a : BitVec 2) (rnw : Bool), s.fatal = none → s.active = .jtag →
    d = (if rnw = true then 0#32 else data) →
    t = s.after (plainScan d a rnw :: idleEvents s.cfg.accAccessDly) 1 →
    u = { s.after ((if s.dpJtag.ir = some 0xA#4 then [] else [.irScan 0xA#4]) ++
        plainScan d a rnw :: idleEvents s.cfg.accAccessDly) 1 with
      dpJtag := { s.dpJtag with ir := some 0xA#4 } } →
    (s.dpJtag.ir = some 0x8#4 → exec (.drAcc35 data a rnw) s = .next t) ∧
    (s.dpJtag.ir = some 0xB#4 → s.dpJtag.currentSelect = none →
      exec (.drAcc35 data a rnw) s = .next t) ∧
    (∀ sel, s.dpJtag.ir = some 0xB#4 → s.dpJtag.currentSelect = some sel →
      exec (.drAcc35 data a rnw) s =
        .next (rawCoherence (sel &&& 0xFF0000F0#32 ||| a.setWidth 32 <<< 2)
          (if rnw = true then none else some d) t)) ∧
    (s.dpJtag.ir ≠ some 0x8#4 → s.dpJtag.ir ≠ some 0xB#4 →
      (rnw = false → a = 0b10#2 →
        exec (.drAcc35 data a rnw) s =
          .next { u with dpJtag := ⟨some d, some 0xA#4, s.dpJtag.orunDetect⟩ }) ∧
      (rnw = false → a = 0b01#2 →
        exec (.drAcc35 data a rnw) s =
          .next { u with dpJtag := ⟨s.dpJtag.currentSelect, some 0xA#4, d.getLsbD 0⟩ }) ∧
      (rnw = true ∨ a = 0b00#2 ∨ a = 0b11#2 → exec (.drAcc35 data a rnw) s = .next u))

/-- The frames `DR_ACC35_CAPTURE`, the transport's next captured word, and `DR_IDCODE32`, the IDCODE scan of
R188: IR IDCODE where it is not in force (R98), one scan of 0, its settle delay. MODEL'S CHOICE that they
are steps (log entries 7 and 10). -/
def Obligations.CaptureAndIdcodeFrames : Prop :=
  ∀ s : State, s.fatal = none → s.active = .jtag →
    (∀ data ack, exec (.drAcc35Capture data ack) s =
      .next { s with captures := s.captures ++ [data ++ ack] }) ∧
    (∀ (data : Word32) (ack : Word3), captureData (data ++ ack) = data ∧ captureAck (data ++ ack) = ack) ∧
    exec .drIdcode32 s = .next
      { s.after ((if s.dpJtag.ir = some 0xE#4 then [] else [.irScan 0xE#4]) ++
          .drScan32 0#32 (noCmp 32) :: idleEvents s.cfg.accAccessDly) 1 with
        dpJtag := { s.dpJtag with ir := some 0xE#4 } }

/-- The four SWD DP read frames: one packet, its acknowledge recorded. MODEL'S CHOICE that a frame is a
step (log entry 7). -/
def Obligations.SwdDpReadFrames : Prop :=
  ∀ (s : State) (a : BitVec 2) (i : Instr), s.fatal = none → s.active = .swd →
    (a, i) ∈ [(0b00#2, Instr.swdDpRA00), (0b01#2, .swdDpRA01), (0b10#2, .swdDpRA10),
      (0b11#2, .swdDpRA11)] →
    exec i s = .next { s.after (readPacket s.cfg false a (noCmp 32)) 3 with
      lastAck := some ((s.captureAt 0).setWidth 3) }

/-- The four SWD DP write frames: one packet, its acknowledge recorded; SELECT is followed by its cache,
CTRL/STAT (bank 0) by `orun_detect`. MODEL'S CHOICE of what a frame does to the caches (log entries 8
and 24). -/
def Obligations.SwdDpWriteFrames : Prop :=
  ∀ (s u : State) (v : Word32) (a : BitVec 2), s.fatal = none → s.active = .swd →
    u = { s.after (writePacket s.cfg false a v) 1 with lastAck := some ((s.captureAt 0).setWidth 3) } →
    (a = 0b00#2 → exec (.swdDpWA00 v) s = .next u) ∧
    (a = 0b01#2 → (s.dpSwd.currentSelect.getD 0#32).extractLsb' 0 4 = 0#4 →
      exec (.swdDpWA01 v) s = .next { u with dpSwd := { s.dpSwd with orunDetect := v.getLsbD 0 } }) ∧
    (a = 0b01#2 → (s.dpSwd.currentSelect.getD 0#32).extractLsb' 0 4 ≠ 0#4 →
      exec (.swdDpWA01 v) s = .next u) ∧
    (a = 0b10#2 →
      exec (.swdDpWA10 v) s = .next { u with dpSwd := { s.dpSwd with currentSelect := some v } }) ∧
    (a = 0b11#2 → exec (.swdDpWA11 v) s = .next u)

/-- The eight SWD AP frames: one packet, its acknowledge recorded, then R169 at the address SELECT gives
the sub-address, its bits 23 to 8 taken as 0. MODEL'S CHOICE of what a frame does to the caches and of
that address (log entry 8), and that no wait states follow it (log entry 7). -/
def Obligations.SwdApFrames : Prop :=
  ∀ (s : State) (v : Word32) (a : BitVec 2) (i : Instr), s.fatal = none → s.active = .swd →
    ((a, i) ∈ [(0b00#2, Instr.swdApRA00), (0b01#2, .swdApRA01), (0b10#2, .swdApRA10),
        (0b11#2, .swdApRA11)] →
      exec i s = .next (match s.dpSwd.currentSelect with
        | none => { s.after (readPacket s.cfg true a (noCmp 32)) 3 with
            lastAck := some ((s.captureAt 0).setWidth 3) }
        | some sel => rawCoherence (sel &&& 0xFF0000F0#32 ||| a.setWidth 32 <<< 2) none
            { s.after (readPacket s.cfg true a (noCmp 32)) 3 with
              lastAck := some ((s.captureAt 0).setWidth 3) })) ∧
    ((a, i) ∈ [(0b00#2, Instr.swdApWA00 v), (0b01#2, .swdApWA01 v), (0b10#2, .swdApWA10 v),
        (0b11#2, .swdApWA11 v)] →
      exec i s = .next (match s.dpSwd.currentSelect with
        | none => { s.after (writePacket s.cfg true a v) 1 with
            lastAck := some ((s.captureAt 0).setWidth 3) }
        | some sel => rawCoherence (sel &&& 0xFF0000F0#32 ||| a.setWidth 32 <<< 2) (some v)
            { s.after (writePacket s.cfg true a v) 1 with
              lastAck := some ((s.captureAt 0).setWidth 3) }))

/-- A wire frame emits nothing in the fatal state, and is refused by name while the other transport is
active (R40). MODEL'S CHOICE (log entries 7 and 11). -/
def Obligations.FrameStops : Prop :=
  ∀ (i : Instr) (s : State) (k : Transport), frameTransport i = some k →
    (s.fatal ≠ none → exec i s = .next s) ∧
    (s.fatal = none → s.active ≠ k → exec i s = .refused (.frameOffTransport k))

/-! ### The whole machine -/

/-- Reset has both invariants: the first under every configuration that R8 admits, the truth of the
transport caches where `DP_SELECT_RESET` is none. -/
def Obligations.ResetHasInvariants : Prop :=
  State.reset.Inv ∧ State.reset.CachesTrue ∧
  (∀ c : Params, c.wf = true → (State.resetWith c).Inv) ∧
  ∀ c : Params, c.dpSelectReset = none → (State.resetWith c).CachesTrue

/-- Every step keeps the invariant. -/
def Obligations.StepKeepsInv : Prop :=
  ∀ s t : State, s.Inv → step s = .next t → t.Inv

/-- R23 and R24: every step keeps the SELECT and IR caches true of the trace: what they hold is what was
last written to SELECT, and last scanned into the IR, over that transport. For a step that sends a wire
frame outside a command this rests on the MODEL'S CHOICE of log entry 8: the spec has no such frame. -/
def Obligations.StepKeepsCachesTrue : Prop :=
  ∀ s t : State, s.CachesTrue → step s = .next t → t.CachesTrue

/-- R41: captured bits steer nothing. Two states that differ only in `last_ack`, in the data and compare
outcomes of their responses and in the bits the transport will return still differ only so after a step,
when the CSW cache is seeded from `csw_reset`. -/
def Obligations.CapturesSteerNothing : Prop :=
  ∀ s s' : State, s.blind = s'.blind → s.cfg.cswSeedSource = .resetValue →
    (∀ t, step s = .next t → ∃ t', step s' = .next t' ∧ t.blind = t'.blind) ∧
    (∀ e, step s = .refused e → step s' = .refused e)

/-- R180, R181, R191: what a command emits on JTAG is a sequence of whole accesses, each scanning the IR
exactly when its class is not the one in force, and never under BYPASS. -/
def Obligations.JtagCommandTraffic : Prop :=
  ∀ (i : Instr) (s t : State), i.isCommand = true → s.active = .jtag → exec i s = .next t →
    ∃ es, t.trace = s.trace ++ es ∧ JtagTraffic s.cfg s.dpJtag.ir es

/-- R210: what an instruction emits on SWD is a sequence of whole packets. -/
def Obligations.SwdPacketTraffic : Prop :=
  ∀ (i : Instr) (s t : State), s.active = .swd → exec i s = .next t →
    ∃ es, t.trace = s.trace ++ es ∧ SwdTraffic s.cfg es

/-- R221, R347: the clocks of one packet, and of one JTAG access. -/
def Obligations.ClocksOfOneAccess : Prop :=
  (∀ (cfg : Params) (apndp : Bool) (a : BitVec 2) (cmp : Cmp 32) (v : Word32),
    totalClocks cfg (readPacket cfg apndp a cmp) = 46 + cfg.swdParkCycles ∧
    totalClocks cfg (writePacket cfg apndp a v) = 46 + cfg.swdParkCycles) ∧
  (∀ (cfg : Params) (ir : Option Word4) (c : IrCode) (tdi : Word35) (cmp : Cmp 35) (n : Nat),
    totalClocks cfg (jtagEvents cfg ir c (.drScan35 tdi cmp) n) =
      (if ir = some (irValue c) then 0 else 4 + cfg.jtagIrOverhead) +
        n * (35 + cfg.jtagDrOverhead) + cfg.accAccessDly)

/-- R348: the scans, idle clocks and total clocks of six JTAG commands at the defaults, caches hit and no
wait states. -/
def Obligations.JtagClockTotals : Prop :=
  ∀ (s t : State) (es : List TransportEvent) (v a : Word32),
    s.fatal = none → s.active = .jtag → s.cfg.accAccessDly = 7 → s.cfg.writeApDly = 8 →
    apWait s.cfg a = 0 → s.apSelect a = none → t.trace = s.trace ++ es →
    (exec (.writeDp (.name .ctrlStat) v {}) s = .next t → s.dpJtag.ir = some 0b1010#4 →
      (irScans es, drScans es, idleClocks es) = (0, 1, 7) ∧
      totalClocks s.cfg es = 42 + s.cfg.jtagDrOverhead) ∧
    (exec (.readDp (.name .ctrlStat) {}) s = .next t → s.dpJtag.ir = some 0b1010#4 →
      (irScans es, drScans es, idleClocks es) = (0, 2, 14) ∧
      totalClocks s.cfg es = 84 + 2 * s.cfg.jtagDrOverhead) ∧
    (exec (.readDp (.name .idcode) {}) s = .next t → s.dpJtag.ir ≠ some 0b1110#4 →
      (irScans es, drScans es, idleClocks es) = (1, 1, 7) ∧
      totalClocks s.cfg es = 43 + s.cfg.jtagIrOverhead + s.cfg.jtagDrOverhead) ∧
    (exec (.writeAp (some a) v {}) s = .next t → s.dpJtag.ir = some 0b1011#4 →
      (irScans es, drScans es, idleClocks es) = (0, 1, 15) ∧
      totalClocks s.cfg es = 50 + s.cfg.jtagDrOverhead) ∧
    (exec (.readAp (some a) {}) s = .next t → s.dpJtag.ir = some 0b1010#4 →
      (irScans es, drScans es, idleClocks es) = (2, 2, 14) ∧
      totalClocks s.cfg es = 92 + 2 * s.cfg.jtagIrOverhead + 2 * s.cfg.jtagDrOverhead) ∧
    (exec (.writeDp (.name .abort) v {}) s = .next t → s.dpJtag.ir ≠ some 0b1000#4 →
      (irScans es, drScans es, idleClocks es) = (1, 1, 7) ∧
      totalClocks s.cfg es = 46 + s.cfg.jtagIrOverhead + s.cfg.jtagDrOverhead)

end
end

