-- ==== Sys2Proof/Laws/State.lean ====
section
/-! SUPPORT. One lemma per field and update of the state, each true by unfolding. -/

namespace Sys2Proof.Machine

/-! `emit` -/

@[simp] theorem State.emit_cfg (s : State) (e : TransportEvent) :
    (s.emit e).cfg = s.cfg := rfl

@[simp] theorem State.emit_pc (s : State) (e : TransportEvent) :
    (s.emit e).pc = s.pc := rfl

@[simp] theorem State.emit_active (s : State) (e : TransportEvent) :
    (s.emit e).active = s.active := rfl

@[simp] theorem State.emit_dpJtag (s : State) (e : TransportEvent) :
    (s.emit e).dpJtag = s.dpJtag := rfl

@[simp] theorem State.emit_dpSwd (s : State) (e : TransportEvent) :
    (s.emit e).dpSwd = s.dpSwd := rfl

@[simp] theorem State.emit_mem (s : State) (e : TransportEvent) :
    (s.emit e).mem = s.mem := rfl

@[simp] theorem State.emit_fatal (s : State) (e : TransportEvent) :
    (s.emit e).fatal = s.fatal := rfl

@[simp] theorem State.emit_lastAck (s : State) (e : TransportEvent) :
    (s.emit e).lastAck = s.lastAck := rfl

@[simp] theorem State.emit_trace (s : State) (e : TransportEvent) :
    (s.emit e).trace = s.trace ++ [e] := rfl

@[simp] theorem State.emit_responses (s : State) (e : TransportEvent) :
    (s.emit e).responses = s.responses := rfl

@[simp] theorem State.emit_port (s : State) (e : TransportEvent) :
    (s.emit e).port = s.port := rfl

@[simp] theorem State.emit_captures (s : State) (e : TransportEvent) :
    (s.emit e).captures = s.captures := rfl

@[simp] theorem State.emit_draws (s : State) (e : TransportEvent) :
    (s.emit e).draws = s.draws := rfl

/-! `setIr` -/

@[simp] theorem State.setIr_cfg (s : State) (v : Option Word4) :
    (s.setIr v).cfg = s.cfg := rfl

@[simp] theorem State.setIr_pc (s : State) (v : Option Word4) :
    (s.setIr v).pc = s.pc := rfl

@[simp] theorem State.setIr_active (s : State) (v : Option Word4) :
    (s.setIr v).active = s.active := rfl

@[simp] theorem State.setIr_dpJtag (s : State) (v : Option Word4) :
    (s.setIr v).dpJtag = { s.dpJtag with ir := v } := rfl

@[simp] theorem State.setIr_dpSwd (s : State) (v : Option Word4) :
    (s.setIr v).dpSwd = s.dpSwd := rfl

@[simp] theorem State.setIr_mem (s : State) (v : Option Word4) :
    (s.setIr v).mem = s.mem := rfl

@[simp] theorem State.setIr_fatal (s : State) (v : Option Word4) :
    (s.setIr v).fatal = s.fatal := rfl

@[simp] theorem State.setIr_lastAck (s : State) (v : Option Word4) :
    (s.setIr v).lastAck = s.lastAck := rfl

@[simp] theorem State.setIr_trace (s : State) (v : Option Word4) :
    (s.setIr v).trace = s.trace := rfl

@[simp] theorem State.setIr_responses (s : State) (v : Option Word4) :
    (s.setIr v).responses = s.responses := rfl

@[simp] theorem State.setIr_port (s : State) (v : Option Word4) :
    (s.setIr v).port = s.port := rfl

@[simp] theorem State.setIr_captures (s : State) (v : Option Word4) :
    (s.setIr v).captures = s.captures := rfl

@[simp] theorem State.setIr_draws (s : State) (v : Option Word4) :
    (s.setIr v).draws = s.draws := rfl

/-! `setAck` -/

@[simp] theorem State.setAck_cfg (s : State) (a : Word3) :
    (s.setAck a).cfg = s.cfg := rfl

@[simp] theorem State.setAck_pc (s : State) (a : Word3) :
    (s.setAck a).pc = s.pc := rfl

@[simp] theorem State.setAck_active (s : State) (a : Word3) :
    (s.setAck a).active = s.active := rfl

@[simp] theorem State.setAck_dpJtag (s : State) (a : Word3) :
    (s.setAck a).dpJtag = s.dpJtag := rfl

@[simp] theorem State.setAck_dpSwd (s : State) (a : Word3) :
    (s.setAck a).dpSwd = s.dpSwd := rfl

@[simp] theorem State.setAck_mem (s : State) (a : Word3) :
    (s.setAck a).mem = s.mem := rfl

@[simp] theorem State.setAck_fatal (s : State) (a : Word3) :
    (s.setAck a).fatal = s.fatal := rfl

@[simp] theorem State.setAck_lastAck (s : State) (a : Word3) :
    (s.setAck a).lastAck = some a := rfl

@[simp] theorem State.setAck_trace (s : State) (a : Word3) :
    (s.setAck a).trace = s.trace := rfl

@[simp] theorem State.setAck_responses (s : State) (a : Word3) :
    (s.setAck a).responses = s.responses := rfl

@[simp] theorem State.setAck_port (s : State) (a : Word3) :
    (s.setAck a).port = s.port := rfl

@[simp] theorem State.setAck_captures (s : State) (a : Word3) :
    (s.setAck a).captures = s.captures := rfl

@[simp] theorem State.setAck_draws (s : State) (a : Word3) :
    (s.setAck a).draws = s.draws := rfl

/-! `setMem` -/

@[simp] theorem State.setMem_cfg (s : State) (i : Nat) (m : MemApState) :
    (s.setMem i m).cfg = s.cfg := rfl

@[simp] theorem State.setMem_pc (s : State) (i : Nat) (m : MemApState) :
    (s.setMem i m).pc = s.pc := rfl

@[simp] theorem State.setMem_active (s : State) (i : Nat) (m : MemApState) :
    (s.setMem i m).active = s.active := rfl

@[simp] theorem State.setMem_dpJtag (s : State) (i : Nat) (m : MemApState) :
    (s.setMem i m).dpJtag = s.dpJtag := rfl

@[simp] theorem State.setMem_dpSwd (s : State) (i : Nat) (m : MemApState) :
    (s.setMem i m).dpSwd = s.dpSwd := rfl

@[simp] theorem State.setMem_mem (s : State) (i : Nat) (m : MemApState) :
    (s.setMem i m).mem = s.mem.set i m := rfl

@[simp] theorem State.setMem_fatal (s : State) (i : Nat) (m : MemApState) :
    (s.setMem i m).fatal = s.fatal := rfl

@[simp] theorem State.setMem_lastAck (s : State) (i : Nat) (m : MemApState) :
    (s.setMem i m).lastAck = s.lastAck := rfl

@[simp] theorem State.setMem_trace (s : State) (i : Nat) (m : MemApState) :
    (s.setMem i m).trace = s.trace := rfl

@[simp] theorem State.setMem_responses (s : State) (i : Nat) (m : MemApState) :
    (s.setMem i m).responses = s.responses := rfl

@[simp] theorem State.setMem_port (s : State) (i : Nat) (m : MemApState) :
    (s.setMem i m).port = s.port := rfl

@[simp] theorem State.setMem_captures (s : State) (i : Nat) (m : MemApState) :
    (s.setMem i m).captures = s.captures := rfl

@[simp] theorem State.setMem_draws (s : State) (i : Nat) (m : MemApState) :
    (s.setMem i m).draws = s.draws := rfl

/-! `setCsw` -/

@[simp] theorem State.setCsw_cfg (s : State) (i : Nat) (v : Word32) :
    (s.setCsw i v).cfg = s.cfg := rfl

@[simp] theorem State.setCsw_pc (s : State) (i : Nat) (v : Word32) :
    (s.setCsw i v).pc = s.pc := rfl

@[simp] theorem State.setCsw_active (s : State) (i : Nat) (v : Word32) :
    (s.setCsw i v).active = s.active := rfl

@[simp] theorem State.setCsw_dpJtag (s : State) (i : Nat) (v : Word32) :
    (s.setCsw i v).dpJtag = s.dpJtag := rfl

@[simp] theorem State.setCsw_dpSwd (s : State) (i : Nat) (v : Word32) :
    (s.setCsw i v).dpSwd = s.dpSwd := rfl

@[simp] theorem State.setCsw_mem (s : State) (i : Nat) (v : Word32) :
    (s.setCsw i v).mem = s.mem.set i { s.memAt i with currentCsw := v } := rfl

@[simp] theorem State.setCsw_fatal (s : State) (i : Nat) (v : Word32) :
    (s.setCsw i v).fatal = s.fatal := rfl

@[simp] theorem State.setCsw_lastAck (s : State) (i : Nat) (v : Word32) :
    (s.setCsw i v).lastAck = s.lastAck := rfl

@[simp] theorem State.setCsw_trace (s : State) (i : Nat) (v : Word32) :
    (s.setCsw i v).trace = s.trace := rfl

@[simp] theorem State.setCsw_responses (s : State) (i : Nat) (v : Word32) :
    (s.setCsw i v).responses = s.responses := rfl

@[simp] theorem State.setCsw_port (s : State) (i : Nat) (v : Word32) :
    (s.setCsw i v).port = s.port := rfl

@[simp] theorem State.setCsw_captures (s : State) (i : Nat) (v : Word32) :
    (s.setCsw i v).captures = s.captures := rfl

@[simp] theorem State.setCsw_draws (s : State) (i : Nat) (v : Word32) :
    (s.setCsw i v).draws = s.draws := rfl

/-! `setTar` -/

@[simp] theorem State.setTar_cfg (s : State) (i : Nat) (v : Option Word32) :
    (s.setTar i v).cfg = s.cfg := rfl

@[simp] theorem State.setTar_pc (s : State) (i : Nat) (v : Option Word32) :
    (s.setTar i v).pc = s.pc := rfl

@[simp] theorem State.setTar_active (s : State) (i : Nat) (v : Option Word32) :
    (s.setTar i v).active = s.active := rfl

@[simp] theorem State.setTar_dpJtag (s : State) (i : Nat) (v : Option Word32) :
    (s.setTar i v).dpJtag = s.dpJtag := rfl

@[simp] theorem State.setTar_dpSwd (s : State) (i : Nat) (v : Option Word32) :
    (s.setTar i v).dpSwd = s.dpSwd := rfl

@[simp] theorem State.setTar_mem (s : State) (i : Nat) (v : Option Word32) :
    (s.setTar i v).mem = s.mem.set i { s.memAt i with currentTar := v } := rfl

@[simp] theorem State.setTar_fatal (s : State) (i : Nat) (v : Option Word32) :
    (s.setTar i v).fatal = s.fatal := rfl

@[simp] theorem State.setTar_lastAck (s : State) (i : Nat) (v : Option Word32) :
    (s.setTar i v).lastAck = s.lastAck := rfl

@[simp] theorem State.setTar_trace (s : State) (i : Nat) (v : Option Word32) :
    (s.setTar i v).trace = s.trace := rfl

@[simp] theorem State.setTar_responses (s : State) (i : Nat) (v : Option Word32) :
    (s.setTar i v).responses = s.responses := rfl

@[simp] theorem State.setTar_port (s : State) (i : Nat) (v : Option Word32) :
    (s.setTar i v).port = s.port := rfl

@[simp] theorem State.setTar_captures (s : State) (i : Nat) (v : Option Word32) :
    (s.setTar i v).captures = s.captures := rfl

@[simp] theorem State.setTar_draws (s : State) (i : Nat) (v : Option Word32) :
    (s.setTar i v).draws = s.draws := rfl

/-! `setDp` -/

@[simp] theorem State.setDp_cfg (s : State) (k : Transport) (d : DpState) :
    (s.setDp k d).cfg = s.cfg := by cases k <;> rfl

@[simp] theorem State.setDp_pc (s : State) (k : Transport) (d : DpState) :
    (s.setDp k d).pc = s.pc := by cases k <;> rfl

@[simp] theorem State.setDp_active (s : State) (k : Transport) (d : DpState) :
    (s.setDp k d).active = s.active := by cases k <;> rfl

@[simp] theorem State.setDp_mem (s : State) (k : Transport) (d : DpState) :
    (s.setDp k d).mem = s.mem := by cases k <;> rfl

@[simp] theorem State.setDp_fatal (s : State) (k : Transport) (d : DpState) :
    (s.setDp k d).fatal = s.fatal := by cases k <;> rfl

@[simp] theorem State.setDp_lastAck (s : State) (k : Transport) (d : DpState) :
    (s.setDp k d).lastAck = s.lastAck := by cases k <;> rfl

@[simp] theorem State.setDp_trace (s : State) (k : Transport) (d : DpState) :
    (s.setDp k d).trace = s.trace := by cases k <;> rfl

@[simp] theorem State.setDp_responses (s : State) (k : Transport) (d : DpState) :
    (s.setDp k d).responses = s.responses := by cases k <;> rfl

@[simp] theorem State.setDp_port (s : State) (k : Transport) (d : DpState) :
    (s.setDp k d).port = s.port := by cases k <;> rfl

@[simp] theorem State.setDp_captures (s : State) (k : Transport) (d : DpState) :
    (s.setDp k d).captures = s.captures := by cases k <;> rfl

@[simp] theorem State.setDp_draws (s : State) (k : Transport) (d : DpState) :
    (s.setDp k d).draws = s.draws := by cases k <;> rfl

/-! `setSelect` -/

@[simp] theorem State.setSelect_cfg (s : State) (k : Transport) (v : Option Word32) :
    (s.setSelect k v).cfg = s.cfg := by cases k <;> rfl

@[simp] theorem State.setSelect_pc (s : State) (k : Transport) (v : Option Word32) :
    (s.setSelect k v).pc = s.pc := by cases k <;> rfl

@[simp] theorem State.setSelect_active (s : State) (k : Transport) (v : Option Word32) :
    (s.setSelect k v).active = s.active := by cases k <;> rfl

@[simp] theorem State.setSelect_mem (s : State) (k : Transport) (v : Option Word32) :
    (s.setSelect k v).mem = s.mem := by cases k <;> rfl

@[simp] theorem State.setSelect_fatal (s : State) (k : Transport) (v : Option Word32) :
    (s.setSelect k v).fatal = s.fatal := by cases k <;> rfl

@[simp] theorem State.setSelect_lastAck (s : State) (k : Transport) (v : Option Word32) :
    (s.setSelect k v).lastAck = s.lastAck := by cases k <;> rfl

@[simp] theorem State.setSelect_trace (s : State) (k : Transport) (v : Option Word32) :
    (s.setSelect k v).trace = s.trace := by cases k <;> rfl

@[simp] theorem State.setSelect_responses (s : State) (k : Transport) (v : Option Word32) :
    (s.setSelect k v).responses = s.responses := by cases k <;> rfl

@[simp] theorem State.setSelect_port (s : State) (k : Transport) (v : Option Word32) :
    (s.setSelect k v).port = s.port := by cases k <;> rfl

@[simp] theorem State.setSelect_captures (s : State) (k : Transport) (v : Option Word32) :
    (s.setSelect k v).captures = s.captures := by cases k <;> rfl

@[simp] theorem State.setSelect_draws (s : State) (k : Transport) (v : Option Word32) :
    (s.setSelect k v).draws = s.draws := by cases k <;> rfl

/-! `setOrun` -/

@[simp] theorem State.setOrun_cfg (s : State) (k : Transport) (b : Bool) :
    (s.setOrun k b).cfg = s.cfg := by cases k <;> rfl

@[simp] theorem State.setOrun_pc (s : State) (k : Transport) (b : Bool) :
    (s.setOrun k b).pc = s.pc := by cases k <;> rfl

@[simp] theorem State.setOrun_active (s : State) (k : Transport) (b : Bool) :
    (s.setOrun k b).active = s.active := by cases k <;> rfl

@[simp] theorem State.setOrun_mem (s : State) (k : Transport) (b : Bool) :
    (s.setOrun k b).mem = s.mem := by cases k <;> rfl

@[simp] theorem State.setOrun_fatal (s : State) (k : Transport) (b : Bool) :
    (s.setOrun k b).fatal = s.fatal := by cases k <;> rfl

@[simp] theorem State.setOrun_lastAck (s : State) (k : Transport) (b : Bool) :
    (s.setOrun k b).lastAck = s.lastAck := by cases k <;> rfl

@[simp] theorem State.setOrun_trace (s : State) (k : Transport) (b : Bool) :
    (s.setOrun k b).trace = s.trace := by cases k <;> rfl

@[simp] theorem State.setOrun_responses (s : State) (k : Transport) (b : Bool) :
    (s.setOrun k b).responses = s.responses := by cases k <;> rfl

@[simp] theorem State.setOrun_port (s : State) (k : Transport) (b : Bool) :
    (s.setOrun k b).port = s.port := by cases k <;> rfl

@[simp] theorem State.setOrun_captures (s : State) (k : Transport) (b : Bool) :
    (s.setOrun k b).captures = s.captures := by cases k <;> rfl

@[simp] theorem State.setOrun_draws (s : State) (k : Transport) (b : Bool) :
    (s.setOrun k b).draws = s.draws := by cases k <;> rfl

/-! `after` -/

@[simp] theorem State.after_cfg (s : State) (es : List TransportEvent) (k : Nat) :
    (s.after es k).cfg = s.cfg := rfl

@[simp] theorem State.after_pc (s : State) (es : List TransportEvent) (k : Nat) :
    (s.after es k).pc = s.pc := rfl

@[simp] theorem State.after_active (s : State) (es : List TransportEvent) (k : Nat) :
    (s.after es k).active = s.active := rfl

@[simp] theorem State.after_dpJtag (s : State) (es : List TransportEvent) (k : Nat) :
    (s.after es k).dpJtag = s.dpJtag := rfl

@[simp] theorem State.after_dpSwd (s : State) (es : List TransportEvent) (k : Nat) :
    (s.after es k).dpSwd = s.dpSwd := rfl

@[simp] theorem State.after_mem (s : State) (es : List TransportEvent) (k : Nat) :
    (s.after es k).mem = s.mem := rfl

@[simp] theorem State.after_fatal (s : State) (es : List TransportEvent) (k : Nat) :
    (s.after es k).fatal = s.fatal := rfl

@[simp] theorem State.after_lastAck (s : State) (es : List TransportEvent) (k : Nat) :
    (s.after es k).lastAck = s.lastAck := rfl

@[simp] theorem State.after_trace (s : State) (es : List TransportEvent) (k : Nat) :
    (s.after es k).trace = s.trace ++ es := rfl

@[simp] theorem State.after_responses (s : State) (es : List TransportEvent) (k : Nat) :
    (s.after es k).responses = s.responses := rfl

@[simp] theorem State.after_port (s : State) (es : List TransportEvent) (k : Nat) :
    (s.after es k).port = s.port := rfl

@[simp] theorem State.after_captures (s : State) (es : List TransportEvent) (k : Nat) :
    (s.after es k).captures = s.captures.drop k := rfl

@[simp] theorem State.after_draws (s : State) (es : List TransportEvent) (k : Nat) :
    (s.after es k).draws = s.draws + (k - s.captures.length) := rfl

/-! `answered` -/

@[simp] theorem State.answered_cfg (s : State) (r : Response) :
    (s.answered r).cfg = s.cfg := rfl

@[simp] theorem State.answered_pc (s : State) (r : Response) :
    (s.answered r).pc = s.pc + 1 := rfl

@[simp] theorem State.answered_active (s : State) (r : Response) :
    (s.answered r).active = s.active := rfl

@[simp] theorem State.answered_dpJtag (s : State) (r : Response) :
    (s.answered r).dpJtag = s.dpJtag := rfl

@[simp] theorem State.answered_dpSwd (s : State) (r : Response) :
    (s.answered r).dpSwd = s.dpSwd := rfl

@[simp] theorem State.answered_mem (s : State) (r : Response) :
    (s.answered r).mem = s.mem := rfl

@[simp] theorem State.answered_fatal (s : State) (r : Response) :
    (s.answered r).fatal = s.fatal := rfl

@[simp] theorem State.answered_lastAck (s : State) (r : Response) :
    (s.answered r).lastAck = s.lastAck := rfl

@[simp] theorem State.answered_trace (s : State) (r : Response) :
    (s.answered r).trace = s.trace := rfl

@[simp] theorem State.answered_responses (s : State) (r : Response) :
    (s.answered r).responses = s.responses ++ [r] := rfl

@[simp] theorem State.answered_port (s : State) (r : Response) :
    (s.answered r).port = s.port := rfl

@[simp] theorem State.answered_captures (s : State) (r : Response) :
    (s.answered r).captures = s.captures := rfl

@[simp] theorem State.answered_draws (s : State) (r : Response) :
    (s.answered r).draws = s.draws := rfl

/-! The Debug Port records by transport -/

@[simp] theorem State.dp_jtag (s : State) : s.dp .jtag = s.dpJtag := rfl

@[simp] theorem State.dp_swd (s : State) : s.dp .swd = s.dpSwd := rfl

@[simp] theorem State.setSelect_jtag (s : State) (v : Option Word32) :
    s.setSelect .jtag v = { s with dpJtag := { s.dpJtag with currentSelect := v } } := rfl

@[simp] theorem State.setSelect_swd (s : State) (v : Option Word32) :
    s.setSelect .swd v = { s with dpSwd := { s.dpSwd with currentSelect := v } } := rfl

@[simp] theorem State.setOrun_jtag (s : State) (b : Bool) :
    s.setOrun .jtag b = { s with dpJtag := { s.dpJtag with orunDetect := b } } := rfl

@[simp] theorem State.setOrun_swd (s : State) (b : Bool) :
    s.setOrun .swd b = { s with dpSwd := { s.dpSwd with orunDetect := b } } := rfl

/-! The MEM-AP caches -/

theorem State.memAt_setMem (s : State) (i : Nat) (m : MemApState) (h : i < s.mem.length) :
    (s.setMem i m).memAt i = m := by
  simp [State.memAt, State.setMem, h]

theorem State.memAt_setMem_ne (s : State) (i j : Nat) (m : MemApState) (h : j ≠ i) :
    (s.setMem i m).memAt j = s.memAt j := by
  simp [State.memAt, State.setMem, List.getElem?_set_ne (Ne.symm h)]

end Sys2Proof.Machine
end

