-- ==== Sys2Proof/Laws/Framing.lean ====
section
/-! SUPPORT. What the shared operations and the two framing strategies do, once: each as the state after
a list of events, with the caches it leaves. -/

namespace Sys2Proof.Machine

/-! ### Events and captures -/

theorem State.after_nil (s : State) : s.after [] 0 = s := by
  simp [State.after]

theorem State.after_after (s : State) (es fs : List TransportEvent) (j k : Nat) :
    (s.after es j).after fs k = s.after (es ++ fs) (j + k) := by
  simp only [State.after, List.append_assoc, List.drop_drop, List.length_drop, State.mk.injEq,
    true_and]
  omega

/-- What is captured depends on the transport's input alone. -/
theorem State.captureAt_congr (s t : State) (hc : t.captures = s.captures) (hd : t.draws = s.draws)
    (k : Nat) : t.captureAt k = s.captureAt k := by
  simp [State.captureAt, hc, hd]

theorem State.captureAt_after (s : State) (es : List TransportEvent) (j k : Nat) :
    (s.after es j).captureAt k = s.captureAt (j + k) := by
  simp only [State.captureAt, State.after, List.getElem?_drop, List.length_drop]
  cases h : s.captures[j + k]? with
  | some c => rfl
  | none =>
    have hlen : s.captures.length ≤ j + k := List.getElem?_eq_none_iff.mp h
    have : s.draws + (j - s.captures.length) + (k - (s.captures.length - j)) =
        s.draws + (j + k - s.captures.length) := by omega
    simp [this]

theorem State.emit_eq_after (s : State) (e : TransportEvent) : s.emit e = s.after [e] 0 := by
  simp [State.emit, State.after]

theorem State.cycle_eq_after (s : State) (n : Nat) : s.cycle n = s.after (idleEvents n) 0 := by
  by_cases h : n = 0
  · simp [State.cycle, idleEvents, h, State.after_nil]
  · simp [State.cycle, idleEvents, h, State.emit_eq_after]

theorem State.emitGet_fst (s : State) (e : TransportEvent) : (s.emitGet e).1 = s.after [e] 1 := by
  cases h : s.captures <;> simp [State.emitGet, State.drop1, State.emit, State.after, h]

theorem State.emitGet_snd (s : State) (e : TransportEvent) : (s.emitGet e).2 = s.captureAt 0 := rfl

/-- Attempts (R185): the same event `n` times; the capture is the last. -/
theorem emitRepeat_eq (e : TransportEvent) (n : Nat) (c : Word35) (s : State) :
    emitRepeat e n c s =
      (s.after (List.replicate n e) n, if n = 0 then c else s.captureAt (n - 1)) := by
  induction n generalizing c s with
  | zero => simp [emitRepeat, State.after_nil]
  | succ n ih =>
    rw [emitRepeat, ih, State.emitGet_fst, State.emitGet_snd, State.after_after]
    refine Prod.ext ?_ ?_
    · simp [List.replicate_succ, Nat.add_comm 1 n]
    · rcases Nat.eq_zero_or_pos n with rfl | hn
      · simp
      · simp only [State.captureAt_after, Nat.ne_of_gt hn, if_false, Nat.succ_ne_zero]
        congr 1
        omega

/-! ### JTAG -/

/-- IR selection (R181). -/
theorem jtagSetIr_eq (c : IrCode) (s : State) :
    jtagSetIr c s =
      { s.after (irEvents s.dpJtag.ir c) 0 with dpJtag := { s.dpJtag with ir := some (irValue c) } } := by
  by_cases h : s.dpJtag.ir = some (irValue c)
  · obtain ⟨cfg, pc, active, ⟨sel, ir, od⟩, rest⟩ := s
    obtain rfl : ir = some (irValue c) := h
    simp [jtagSetIr, irEvents, State.after]
  · simp [jtagSetIr, irEvents, h, State.emit, State.setIr, State.after]

/-- A 35-bit access with at least one attempt (R187). -/
theorem jtagAccess_eq (ir : IrCode) (a : BitVec 2) (rnw : Bool) (data : Word32) (n : Nat) (cmp : Cmp 32)
    (s : State) (hn : 0 < n) :
    jtagAccess ir a rnw data n cmp s =
      ({ s.after (jtagEvents s.cfg s.dpJtag.ir ir
            (.drScan35 (drValue data a rnw) (widenCmp s.cfg cmp)) n) n with
          dpJtag := { s.dpJtag with ir := some (irValue ir) }
          lastAck := ackAfter s.cfg cmp (s.captureAt (n - 1)) s.lastAck },
        ⟨captureData (s.captureAt (n - 1)), matchCmp (s.captureAt (n - 1)) (widenCmp s.cfg cmp)⟩) := by
  have hn' : n ≠ 0 := Nat.ne_of_gt hn
  have hcap : (jtagSetIr ir s).captureAt (n - 1) = s.captureAt (n - 1) := by
    rw [jtagSetIr_eq]
    exact (State.captureAt_congr (s.after (irEvents s.dpJtag.ir ir) 0) _ rfl rfl _).trans
      (by rw [State.captureAt_after, Nat.zero_add])
  unfold jtagAccess
  simp only [emitRepeat_eq, hn', if_false, hcap]
  rw [jtagSetIr_eq, State.cycle_eq_after]
  by_cases hw : s.cfg.readAckWidth = .three ∧ cmp ≠ noCmp 32
  · simp [hw, ackAfter, State.setAck, State.after, jtagEvents]
  · simp only [hw, if_false, ackAfter]
    simp [State.after, jtagEvents]

/-- The IDCODE scan with at least one attempt (R125, R188). -/
theorem jtagIdcode_eq (n : Nat) (cmp : Cmp 32) (s : State) (hn : 0 < n) :
    jtagIdcode n cmp s =
      ({ s.after (jtagEvents s.cfg s.dpJtag.ir .idcode (.drScan32 0#32 cmp) n) n with
          dpJtag := { s.dpJtag with ir := some (irValue .idcode) } },
        ⟨(s.captureAt (n - 1)).setWidth 32, matchCmp ((s.captureAt (n - 1)).setWidth 32) cmp⟩) := by
  have hn' : n ≠ 0 := Nat.ne_of_gt hn
  have hcap : (jtagSetIr .idcode s).captureAt (n - 1) = s.captureAt (n - 1) := by
    rw [jtagSetIr_eq]
    exact (State.captureAt_congr (s.after (irEvents s.dpJtag.ir .idcode) 0) _ rfl rfl _).trans
      (by rw [State.captureAt_after, Nat.zero_add])
  unfold jtagIdcode
  simp only [emitRepeat_eq, hn', if_false, hcap]
  rw [jtagSetIr_eq, State.cycle_eq_after]
  simp [State.after, jtagEvents]

/-! ### SWD -/

/-- What is captured after some events and a recorded acknowledge. -/
theorem State.captureAt_acked (s : State) (es : List TransportEvent) (j k : Nat) (x : Option Word3) :
    ({ s.after es j with lastAck := x } : State).captureAt k = s.captureAt (j + k) :=
  (State.captureAt_congr (s.after es j) _ rfl rfl k).trans (State.captureAt_after s es j k)

/-- Request, turnaround and acknowledge (R211, R213). -/
theorem swdHeader_eq (apndp rnw : Bool) (a : BitVec 2) (s : State) :
    swdHeader apndp rnw a s =
      { s.after [.swdSend8 (swdRequest apndp rnw a), .swdTrn, .swdGet3 (noCmp 3)] 1 with
        lastAck := some ((s.captureAt 0).setWidth 3) } := by
  simp only [swdHeader, State.emitGet_fst, State.emitGet_snd, State.emit_eq_after, State.after_after,
    State.captureAt_after, State.setAck]
  rfl

/-- A read packet (R214, R219). -/
theorem swdPacket_read (apndp : Bool) (a : BitVec 2) (data : Word32) (cmp : Cmp 32) (s : State) :
    swdPacket apndp true a data cmp s =
      ({ s.after (readPacket s.cfg apndp a cmp) 3 with
          lastAck := some ((s.captureAt 0).setWidth 3) },
        ⟨(s.captureAt 1).setWidth 32, matchCmp ((s.captureAt 1).setWidth 32) cmp⟩) := by
  simp only [swdPacket, swdReadData, swdHeader_eq, State.emitGet_fst, State.emitGet_snd,
    State.emit_eq_after, State.after_after, if_true, State.captureAt_acked]
  simp only [State.after, readPacket, List.append_assoc, List.cons_append, List.nil_append,
    List.drop_drop, List.length_drop, Prod.mk.injEq, State.mk.injEq, and_true, true_and]
  omega

/-- A write packet (R216, R219). -/
theorem swdPacket_write (apndp : Bool) (a : BitVec 2) (data : Word32) (cmp : Cmp 32) (s : State) :
    swdPacket apndp false a data cmp s =
      ({ s.after (writePacket s.cfg apndp a data) 1 with
          lastAck := some ((s.captureAt 0).setWidth 3) }, ⟨0#32, true⟩) := by
  simp only [swdPacket, swdWriteData, swdHeader_eq, State.emit_eq_after, State.after_after]
  simp [State.after, writePacket]

theorem repeatEvents_succ (n : Nat) (es : List TransportEvent) :
    repeatEvents (n + 1) es = es ++ repeatEvents n es := by
  simp [repeatEvents, List.replicate_succ]

theorem repeatEvents_one (es : List TransportEvent) : repeatEvents 1 es = es := by
  simp [repeatEvents]

/-- Read packets, `n + 1` of them (R220). -/
theorem swdRepeat_read_succ (apndp : Bool) (a : BitVec 2) (data : Word32) (cmp : Cmp 32) (n : Nat)
    (r : ReadResult) (s : State) :
    swdRepeat apndp true a data cmp (n + 1) r s =
      ({ s.after (repeatEvents (n + 1) (readPacket s.cfg apndp a cmp)) (3 * (n + 1)) with
          lastAck := some ((s.captureAt (3 * n)).setWidth 3) },
        ⟨(s.captureAt (3 * n + 1)).setWidth 32,
          matchCmp ((s.captureAt (3 * n + 1)).setWidth 32) cmp⟩) := by
  induction n generalizing s r with
  | zero => simp [swdRepeat, swdPacket_read, repeatEvents_one]
  | succ n ih =>
    have e1 : 3 + 3 * n = 3 * (n + 1) := by omega
    have e2 : 3 + (3 * n + 1) = 3 * (n + 1) + 1 := by omega
    have e3 : 3 + 3 * (n + 1) = 3 * (n + 1 + 1) := by omega
    have step := State.after_after s (readPacket s.cfg apndp a cmp)
      (repeatEvents (n + 1) (readPacket s.cfg apndp a cmp)) 3 (3 * (n + 1))
    rw [swdRepeat, ih, swdPacket_read]
    simp only [State.captureAt_acked, e1, e2, repeatEvents_succ (n + 1), Prod.mk.injEq, and_true]
    rw [e3] at step
    simp only [State.after, State.mk.injEq, true_and] at step ⊢
    exact step

/-- Read packets with at least one attempt (R220). -/
theorem swdAccess_read (apndp : Bool) (a : BitVec 2) (data : Word32) (n : Nat) (cmp : Cmp 32)
    (s : State) (hn : 0 < n) :
    swdAccess apndp true a data n cmp s =
      ({ s.after (repeatEvents n (readPacket s.cfg apndp a cmp)) (3 * n) with
          lastAck := some ((s.captureAt (3 * (n - 1))).setWidth 3) },
        ⟨(s.captureAt (3 * (n - 1) + 1)).setWidth 32,
          matchCmp ((s.captureAt (3 * (n - 1) + 1)).setWidth 32) cmp⟩) := by
  obtain ⟨m, rfl⟩ : ∃ m, n = m + 1 := ⟨n - 1, by omega⟩
  exact swdRepeat_read_succ apndp a data cmp m _ s

/-- Write packets, `n + 1` of them (R220). -/
theorem swdRepeat_write_succ (apndp : Bool) (a : BitVec 2) (data : Word32) (cmp : Cmp 32) (n : Nat)
    (r : ReadResult) (s : State) :
    swdRepeat apndp false a data cmp (n + 1) r s =
      ({ s.after (repeatEvents (n + 1) (writePacket s.cfg apndp a data)) (n + 1) with
          lastAck := some ((s.captureAt n).setWidth 3) }, ⟨0#32, true⟩) := by
  induction n generalizing s r with
  | zero => simp [swdRepeat, swdPacket_write, repeatEvents_one]
  | succ n ih =>
    have step := State.after_after s (writePacket s.cfg apndp a data)
      (repeatEvents (n + 1) (writePacket s.cfg apndp a data)) 1 (n + 1)
    rw [swdRepeat, ih, swdPacket_write]
    simp only [State.captureAt_acked, Nat.add_comm 1 n, repeatEvents_succ (n + 1), Prod.mk.injEq,
      and_true]
    rw [Nat.add_comm 1 (n + 1)] at step
    simp only [State.after, State.mk.injEq, true_and] at step ⊢
    exact step

/-- Write packets with at least one attempt (R220). -/
theorem swdAccess_write (apndp : Bool) (a : BitVec 2) (data : Word32) (n : Nat) (cmp : Cmp 32)
    (s : State) (hn : 0 < n) :
    swdAccess apndp false a data n cmp s =
      ({ s.after (repeatEvents n (writePacket s.cfg apndp a data)) n with
          lastAck := some ((s.captureAt (n - 1)).setWidth 3) }, ⟨0#32, true⟩) := by
  obtain ⟨m, rfl⟩ : ∃ m, n = m + 1 := ⟨n - 1, by omega⟩
  exact swdRepeat_write_succ apndp a data cmp m _ s

end Sys2Proof.Machine
end

