-- ==== Sys2Proof/Laws/Engine.lean ====
section
/-! SUPPORT. What each shared operation of the DP, AP and MEM-AP engines does, once: the state after it
and what it returns, on either transport. -/

namespace Sys2Proof.Machine

/-! ### Admission and the end of a command -/

/-- Admission passes (R292). -/
theorem checkAdmission_run (counts : List Nat) (body : State → State × Response) (s : State)
    (hf : s.fatal = none) (hc : 0 ∉ counts) : checkAdmission counts body s = body s := by
  simp [checkAdmission, hf, hc]

/-- Admission refuses (R299). -/
theorem checkAdmission_refused (counts : List Nat) (body : State → State × Response) (s : State)
    (hf : s.fatal ≠ none) : checkAdmission counts body s = refuse s := by
  have : s.fatal.isSome = true := Option.isSome_iff_ne_none.mpr hf
  simp [checkAdmission, this]

/-- Admission raises BAD_OPTION (R296). -/
theorem checkAdmission_badOption (counts : List Nat) (body : State → State × Response) (s : State)
    (hf : s.fatal = none) (hc : 0 ∈ counts) : checkAdmission counts body s = raiseFatal .badOption s := by
  simp [checkAdmission, hf, hc]

theorem command_eq (body : State → State × Response) (s : State) :
    command body s = .next ((body s).1.answered (body s).2) := rfl

theorem wireFrame_run (k : Transport) (body : State → State) (s : State) (hf : s.fatal = none)
    (hk : s.active = k) : wireFrame k body s = .next (body s) := by
  simp [wireFrame, hf, hk]

/-! ### The DP engine -/

theorem dpAccess_jtag (d : BitVec 2) (rnw : Bool) (data : Word32) (n : Nat) (cmp : Cmp 32) (s : State)
    (h : s.active = .jtag) : dpAccess d rnw data n cmp s = jtagAccess .dpacc d rnw data n cmp s := by
  simp [dpAccess, h]

theorem dpAccess_swd (d : BitVec 2) (rnw : Bool) (data : Word32) (n : Nat) (cmp : Cmp 32) (s : State)
    (h : s.active = .swd) : dpAccess d rnw data n cmp s = swdAccess false rnw d data n cmp s := by
  simp [dpAccess, h]

theorem widenCmp_noCmp (cfg : Params) : widenCmp cfg (noCmp 32) = noCmp 35 := by
  cases h : cfg.readAckWidth <;> simp [widenCmp, h, noCmp]

theorem ackAfter_noCmp (cfg : Params) (c : Word35) (old : Option Word3) :
    ackAfter cfg (noCmp 32) c old = old := by
  simp [ackAfter]

/-- An access without a compare: a write, or a request whose capture is junk. -/
theorem jtagAccess_plain (ir : IrCode) (a : BitVec 2) (rnw : Bool) (data : Word32) (n : Nat) (s : State)
    (hn : 0 < n) :
    (jtagAccess ir a rnw data n (noCmp 32) s).1 =
      { s.after (jtagEvents s.cfg s.dpJtag.ir ir (plainScan data a rnw) n) n with
        dpJtag := { s.dpJtag with ir := some (irValue ir) } } := by
  rw [jtagAccess_eq ir a rnw data n (noCmp 32) s hn]
  simp only [widenCmp_noCmp, ackAfter_noCmp, plainScan]
  rfl

/-- `WriteSelect` on JTAG (R131). -/
theorem writeSelect_jtag (v : Word32) (n : Nat) (s : State) (h : s.active = .jtag) (hn : 0 < n) :
    writeSelect v n s =
      { s.after (jtagEvents s.cfg s.dpJtag.ir .dpacc (plainScan v 0b10#2 false) n) n with
        dpJtag := { s.dpJtag with currentSelect := some v, ir := some (irValue .dpacc) } } := by
  simp only [writeSelect, dpAccess_jtag _ _ _ _ _ s h, jtagAccess_plain _ _ _ _ _ s hn]
  simp [State.setSelect, State.setDp, State.dp, h, State.after]

/-- `WriteSelect` on SWD (R131). -/
theorem writeSelect_swd (v : Word32) (n : Nat) (s : State) (h : s.active = .swd) (hn : 0 < n) :
    writeSelect v n s =
      { s.after (repeatEvents n (writePacket s.cfg false 0b10#2 v)) n with
        dpSwd := { s.dpSwd with currentSelect := some v }
        lastAck := some ((s.captureAt (n - 1)).setWidth 3) } := by
  simp only [writeSelect, dpAccess_swd _ _ _ _ _ s h, swdAccess_write _ _ _ _ _ s hn]
  simp [State.setSelect, State.setDp, State.dp, h, State.after]

/-- `SelectDpBank` (R138). -/
theorem selectDpBank_eq (b : Word32) (s : State) (hb : b = 0#32 ∨ b = 1#32) :
    selectDpBank b s =
      match dpBankWrite s.dpSwd.currentSelect b with
      | none => s
      | some v => writeSelect v 1 s := by
  cases hc : s.dpSwd.currentSelect with
  | none => rcases hb with rfl | rfl <;> simp [selectDpBank, dpBankWrite, hc, selBank]
  | some c =>
    simp only [selectDpBank, dpBankWrite, hc, Option.getD_some, selBank, selKey, reduceCtorEq,
      false_or]
    split <;> rfl

/-- `RDBUFF` on JTAG (R128, R164). -/
theorem jtagRdbuff_eq (n : Nat) (cmp : Cmp 32) (s : State) (hn : 0 < n) :
    jtagAccess .dpacc 0b11#2 true 0#32 n cmp s =
      (s.jtagRdbuff n cmp,
        ⟨captureData (s.captureAt (n - 1)), matchCmp (s.captureAt (n - 1)) (widenCmp s.cfg cmp)⟩) :=
  jtagAccess_eq _ _ _ _ n cmp s hn

/-- The two-phase JTAG DP read (R137). -/
theorem jtagDpRead2_eq (d : BitVec 2) (n : Nat) (cmp : Cmp 32) (s : State) (hn : 0 < n) :
    jtagDpRead2 d n cmp s =
      (s.jtagRead2 d n cmp,
        ⟨captureData (s.captureAt (1 + (n - 1))),
          matchCmp (s.captureAt (1 + (n - 1))) (widenCmp s.cfg cmp)⟩) := by
  simp only [jtagDpRead2, jtagAccess_plain _ _ _ _ _ s Nat.one_pos]
  rw [jtagRdbuff_eq n cmp _ hn]
  have hcap : ∀ es (d : DpState) j, ({ s.after es 1 with dpJtag := d } : State).captureAt j =
      s.captureAt (1 + j) := fun es d j =>
    (State.captureAt_congr (s.after es 1) _ rfl rfl j).trans (State.captureAt_after s es 1 j)
  simp only [State.jtagRdbuff, hcap]
  simp [State.jtagRead2, State.after]
  omega

/-- SWD DP packets after the bank selection of R138. -/
theorem swdDpRead_eq (b : Word32) (a : BitVec 2) (n : Nat) (cmp : Cmp 32) (s : State) (hn : 0 < n)
    (h : s.active = .swd) (hb : b = 0#32 ∨ b = 1#32) :
    (swdAccess false true a 0#32 n cmp (selectDpBank b s)).1 =
        s.swdDpRead (dpBankWrite s.dpSwd.currentSelect b) a n cmp ∧
      okRead (swdAccess false true a 0#32 n cmp (selectDpBank b s)).2.data
          (swdAccess false true a 0#32 n cmp (selectDpBank b s)).2.matched =
        s.swdAnswer (dpBankWrite s.dpSwd.currentSelect b) n cmp := by
  rw [selectDpBank_eq b s hb]
  cases hw : dpBankWrite s.dpSwd.currentSelect b with
  | none =>
    simp [swdAccess_read _ _ _ _ _ s hn, State.swdDpRead, State.swdAnswer, selectSwd, selectGets,
      selectAfter, State.after]
  | some v =>
    have hcap : ∀ es (d : DpState) x j,
        ({ s.after es 1 with dpSwd := d, lastAck := x } : State).captureAt j = s.captureAt (1 + j) :=
      fun es d x j =>
        (State.captureAt_congr (s.after es 1) _ rfl rfl j).trans (State.captureAt_after s es 1 j)
    simp only [writeSelect_swd v 1 s h Nat.one_pos, swdAccess_read _ _ _ _ _ _ hn, hcap]
    simp [State.swdDpRead, State.swdAnswer, selectSwd, selectGets, selectAfter, State.after,
      repeatEvents_one, Nat.add_assoc]
    omega

/-- SWD DP packets without a bank selection. -/
theorem swdDpRead_plain (a : BitVec 2) (n : Nat) (cmp : Cmp 32) (s : State) (hn : 0 < n) :
    (swdAccess false true a 0#32 n cmp s).1 = s.swdDpRead none a n cmp ∧
      okRead (swdAccess false true a 0#32 n cmp s).2.data
          (swdAccess false true a 0#32 n cmp s).2.matched = s.swdAnswer none n cmp := by
  simp [swdAccess_read _ _ _ _ _ s hn, State.swdDpRead, State.swdAnswer, selectSwd, selectGets,
    selectAfter, State.after]

/-- SWD DP write packets after the bank selection of R138. -/
theorem swdDpWritten_eq (b : Word32) (a : BitVec 2) (v : Word32) (n : Nat) (s : State) (hn : 0 < n)
    (h : s.active = .swd) (hb : b = 0#32 ∨ b = 1#32) :
    (swdAccess false false a v n (noCmp 32) (selectDpBank b s)).1 =
      s.swdDpWritten (dpBankWrite s.dpSwd.currentSelect b) a v n := by
  rw [selectDpBank_eq b s hb]
  cases hw : dpBankWrite s.dpSwd.currentSelect b with
  | none =>
    simp [swdAccess_write _ _ _ _ _ s hn, State.swdDpWritten, selectSwd, selectGets, selectAfter,
      State.after]
  | some x =>
    have hcap : ∀ es (d : DpState) y j,
        ({ s.after es 1 with dpSwd := d, lastAck := y } : State).captureAt j = s.captureAt (1 + j) :=
      fun es d y j =>
        (State.captureAt_congr (s.after es 1) _ rfl rfl j).trans (State.captureAt_after s es 1 j)
    simp only [writeSelect_swd x 1 s h Nat.one_pos, swdAccess_write _ _ _ _ _ _ hn, hcap]
    simp [State.swdDpWritten, selectSwd, selectGets, selectAfter, State.after, repeatEvents_one]
    omega

/-- SWD DP write packets without a bank selection. -/
theorem swdDpWritten_plain (a : BitVec 2) (v : Word32) (n : Nat) (s : State) (hn : 0 < n) :
    (swdAccess false false a v n (noCmp 32) s).1 = s.swdDpWritten none a v n := by
  simp [swdAccess_write _ _ _ _ _ s hn, State.swdDpWritten, selectSwd, selectGets, selectAfter,
    State.after]

/-! ### The AP engine -/

/-- `SelectForAP` (R161). -/
theorem selectForAp_cases (a : Word32) (s : State) :
    selectForAp a s =
      match s.apSelect a with
      | none => s
      | some v => writeSelect v 1 s := by
  simp only [selectForAp, State.apSelect, apSelectWrite, selValue]
  cases (s.dp s.active).currentSelect with
  | none => rfl
  | some c => by_cases h : c &&& selKey s.active ≠ a &&& 0xFF0000F0#32 &&& selKey s.active <;> simp [h]

theorem selectForAp_eq (a : Word32) (s : State) : selectForAp a s = s.apSelected a := by
  rw [selectForAp_cases]
  cases hw : s.apSelect a with
  | none =>
    cases hk : s.active with
    | jtag =>
      simp [State.apSelected, hk, hw, selectJtag, selectGets, selectAfter, irAfterSelect, State.after]
      rw [← hk]
    | swd =>
      simp [State.apSelected, hk, hw, selectSwd, selectGets, selectAfter, State.after]
      rw [← hk]
  | some v =>
    cases hk : s.active with
    | jtag =>
      simp [State.apSelected, hk, hw, selectJtag, selectGets, selectAfter, irAfterSelect,
        writeSelect_jtag v 1 s hk]
    | swd =>
      simp [State.apSelected, hk, hw, selectSwd, selectGets, selectAfter, repeatEvents_one,
        writeSelect_swd v 1 s hk]

@[simp] theorem State.apSelected_active (s : State) (a : Word32) : (s.apSelected a).active = s.active := by
  cases h : s.active <;> simp [State.apSelected, h, State.after]

@[simp] theorem State.apSelected_cfg (s : State) (a : Word32) : (s.apSelected a).cfg = s.cfg := by
  cases h : s.active <;> simp [State.apSelected, h, State.after]

theorem State.captureAt_apSelected (s : State) (a : Word32) (k : Nat) :
    (s.apSelected a).captureAt k = s.captureAt (selectGets (s.apSelect a) + k) := by
  cases h : s.active with
  | jtag =>
    have : (s.apSelected a).captureAt k =
        (s.after (selectJtag s.cfg s.dpJtag.ir (s.apSelect a)) (selectGets (s.apSelect a))).captureAt k :=
      State.captureAt_congr _ _ (by simp [State.apSelected, h]) (by simp [State.apSelected, h]) k
    rw [this, State.captureAt_after]
  | swd =>
    have : (s.apSelected a).captureAt k =
        (s.after (selectSwd s.cfg (s.apSelect a)) (selectGets (s.apSelect a))).captureAt k :=
      State.captureAt_congr _ _ (by simp [State.apSelected, h]) (by simp [State.apSelected, h]) k
    rw [this, State.captureAt_after]

/-- `ReadApCore` (R163). -/
theorem readApCore_eq (a : Word32) (n : Nat) (cmp : Cmp 32) (s : State) (hn : 0 < n) :
    readApCore a n cmp s = (s.apRead a n cmp, s.apReadResult a n cmp) := by
  have hact : (s.apSelected a).active = s.active := State.apSelected_active s a
  cases hk : s.active with
  | jtag =>
    simp only [readApCore, selectForAp_eq, apAccess, hact, hk, jtagAccess_plain _ _ _ _ _ _ Nat.one_pos,
      rdbuffRead, State.cycle_eq_after]
    rw [dpAccess_jtag _ _ _ _ _ _ (by simp [State.after, hk])]
    rw [jtagAccess_eq _ _ _ _ _ _ _ hn]
    have hcap : ∀ es fs (d : DpState) j, (({ (s.apSelected a).after es 1 with dpJtag := d } : State).after
        fs 0).captureAt j = s.captureAt (selectGets (s.apSelect a) + (1 + j)) := by
      intro es fs d j
      rw [State.captureAt_after, ← State.captureAt_apSelected]
      exact (State.captureAt_congr ((s.apSelected a).after es 1) _ rfl rfl _).trans
        (by rw [State.captureAt_after, Nat.zero_add])
    simp only [hcap]
    simp [State.apRead, apAddr2, State.apReadResult, State.apSelected, hk, State.after, rdbuffScan,
      Nat.add_assoc]
    omega
  | swd =>
    simp only [readApCore, selectForAp_eq, apAccess, hact, hk, rdbuffRead, State.cycle_eq_after]
    rw [swdAccess_read _ _ _ _ _ _ Nat.one_pos]
    rw [dpAccess_swd _ _ _ _ _ _ (by simp [State.after, hk])]
    rw [swdAccess_read _ _ _ _ _ _ hn]
    have hcap : ∀ es fs x j, (({ (s.apSelected a).after es 3 with lastAck := x } : State).after
        fs 0).captureAt j = s.captureAt (selectGets (s.apSelect a) + (3 + j)) := by
      intro es fs x j
      rw [State.captureAt_after, Nat.zero_add, State.captureAt_acked, State.captureAt_apSelected]
    simp only [Nat.mul_one, hcap]
    simp [State.apRead, apAddr2, State.apReadResult, State.apSelected, hk, State.after, repeatEvents_one,
      Nat.add_assoc]
    omega

/-- `WriteApCore` (R165, R166). -/
theorem writeApCore_eq (a v : Word32) (n : Nat) (s : State) (hn : 0 < n) :
    writeApCore a v n s = s.apWritten a v n := by
  have hact : (s.apSelected a).active = s.active := State.apSelected_active s a
  cases hk : s.active with
  | jtag =>
    simp only [writeApCore, selectForAp_eq, apAccess, hact, hk, jtagAccess_plain _ _ _ _ _ _ hn,
      State.cycle_eq_after]
    simp [State.apWritten, apAddr2, State.apSelected, hk, State.after]
    omega
  | swd =>
    simp only [writeApCore, selectForAp_eq, apAccess, hact, hk, swdAccess_write _ _ _ _ _ _ hn,
      State.cycle_eq_after, State.captureAt_apSelected]
    simp [State.apWritten, apAddr2, State.apSelected, hk, State.after]
    omega

end Sys2Proof.Machine
end

