-- ==== Sys2Proof/Laws/MemAp.lean ====
section
/-! SUPPORT. What the operations of the MEM-AP engine do to the MEM-AP caches, and where the MemAP that a
command names stands. -/

namespace Sys2Proof.Machine

/-! ### Which entry an operand names -/

theorem findFrom_lt {α : Type} (p : α → Bool) (l : List α) (k i : Nat) (x : α)
    (h : findFrom p k l = some (i, x)) : i < k + l.length := by
  induction l generalizing k with
  | nil => simp [findFrom] at h
  | cons a l ih =>
    simp only [findFrom] at h
    split at h
    · simp only [Option.some.injEq, Prod.mk.injEq] at h
      simp only [List.length_cons]
      omega
    · have := ih _ h
      simp only [List.length_cons]
      omega

/-- The MemAP a command names is an entry of `APS` (R240). -/
theorem memApOf_lt {cfg : Params} {r : ApRef} {i : Nat} {ap : ApConfig}
    (h : memApOf cfg r = some (i, ap)) : i < cfg.aps.length := by
  unfold memApOf at h
  split at h
  · rename_i j ap' hj
    split at h
    · simp only [Option.some.injEq, Prod.mk.injEq] at h
      obtain ⟨rfl, rfl⟩ := h
      unfold findAp at hj
      split at hj
      · rename_i k
        cases hk : cfg.aps[k]? with
        | none => simp [hk] at hj
        | some x =>
          simp only [hk, Option.map_some, Option.some.injEq, Prod.mk.injEq] at hj
          obtain ⟨rfl, _⟩ := hj
          exact (List.getElem?_eq_some_iff.mp hk).1
      · have := findFrom_lt _ _ _ _ _ hj
        omega
    · cases h
  · cases h

/-! ### AP accesses leave the MEM-AP caches -/

@[simp] theorem State.apRead_mem (s : State) (a : Word32) (n : Nat) (c : Cmp 32) :
    (s.apRead a n c).mem = s.mem := by
  unfold State.apRead
  dsimp only
  split <;> rfl

@[simp] theorem State.apWritten_mem (s : State) (a v : Word32) (n : Nat) :
    (s.apWritten a v n).mem = s.mem := by
  unfold State.apWritten
  dsimp only
  split <;> rfl

@[simp] theorem State.apRead_cfg (s : State) (a : Word32) (n : Nat) (c : Cmp 32) :
    (s.apRead a n c).cfg = s.cfg := by
  unfold State.apRead
  dsimp only
  split <;> rfl

@[simp] theorem State.apWritten_cfg (s : State) (a v : Word32) (n : Nat) :
    (s.apWritten a v n).cfg = s.cfg := by
  unfold State.apWritten
  dsimp only
  split <;> rfl

@[simp] theorem State.apRead_fatal (s : State) (a : Word32) (n : Nat) (c : Cmp 32) :
    (s.apRead a n c).fatal = s.fatal := by
  unfold State.apRead
  dsimp only
  split <;> rfl

@[simp] theorem State.apWritten_fatal (s : State) (a v : Word32) (n : Nat) :
    (s.apWritten a v n).fatal = s.fatal := by
  unfold State.apWritten
  dsimp only
  split <;> rfl

@[simp] theorem State.apRead_active (s : State) (a : Word32) (n : Nat) (c : Cmp 32) :
    (s.apRead a n c).active = s.active := by
  unfold State.apRead
  dsimp only
  split <;> simp [*, State.after]

@[simp] theorem State.apWritten_active (s : State) (a v : Word32) (n : Nat) :
    (s.apWritten a v n).active = s.active := by
  unfold State.apWritten
  dsimp only
  split <;> simp [*, State.after]

theorem State.memAt_congr {s t : State} (h : s.mem = t.mem) (i : Nat) : s.memAt i = t.memAt i := by
  simp [State.memAt, h]

@[simp] theorem State.memAt_apRead (s : State) (a : Word32) (n : Nat) (c : Cmp 32) (i : Nat) :
    (s.apRead a n c).memAt i = s.memAt i := State.memAt_congr (by simp) i

@[simp] theorem State.memAt_apWritten (s : State) (a v : Word32) (n i : Nat) :
    (s.apWritten a v n).memAt i = s.memAt i := State.memAt_congr (by simp) i

/-! ### The caches themselves -/

theorem State.memAt_setCsw (s : State) (i : Nat) (v : Word32) (h : i < s.mem.length) :
    (s.setCsw i v).memAt i = ⟨v, (s.memAt i).currentTar⟩ := by
  simp [State.setCsw, State.setMem, State.memAt, h]

theorem State.memAt_setTar (s : State) (i : Nat) (v : Option Word32) (h : i < s.mem.length) :
    (s.setTar i v).memAt i = ⟨(s.memAt i).currentCsw, v⟩ := by
  simp [State.setTar, State.setMem, State.memAt, h]

@[simp] theorem State.setCsw_mem_length (s : State) (i : Nat) (v : Word32) :
    (s.setCsw i v).mem.length = s.mem.length := by
  simp [State.setCsw, State.setMem]

@[simp] theorem State.setTar_mem_length (s : State) (i : Nat) (v : Option Word32) :
    (s.setTar i v).mem.length = s.mem.length := by
  simp [State.setTar, State.setMem]

/-- A CSW value with its SIZE replaced has that SIZE (R241). -/
theorem cswSize_withSize (c : Word32) (e : BitVec 3) : cswSize (withSize c e) = e := by
  apply BitVec.eq_of_getLsbD_eq
  intro i hi
  simp only [cswSize, withSize]
  interval_cases i <;> simp

/-- A CSW value with its SIZE replaced keeps its ADDRINC (R241: "Only SIZE is ever changed"). -/
theorem cswAddrInc_withSize (c : Word32) (e : BitVec 3) :
    cswAddrInc (withSize c e) = cswAddrInc c := by
  apply BitVec.eq_of_getLsbD_eq
  intro i hi
  simp only [cswAddrInc, withSize]
  interval_cases i <;> simp

/-- `SetSize` (R241) on a seeded cache. -/
theorem setSize_seeded (i : Nat) (ap : ApConfig) (w : Width) (s : State)
    (h : (s.memAt i).currentCsw ≠ 0#32) :
    setSize i ap w s =
      if cswSize (s.memAt i).currentCsw = sizeEnc w then s
      else (s.apWritten (cswAddr ap) (withSize (s.memAt i).currentCsw (sizeEnc w)) 1).setCsw i
        (withSize (s.memAt i).currentCsw (sizeEnc w)) := by
  simp only [setSize, seedCsw, h, if_false, writeApCore_eq _ _ _ _ Nat.one_pos]
  split <;> simp_all

/-- `SetAddr` (R243). -/
theorem setAddr_eq (i : Nat) (ap : ApConfig) (a : Word32) (force : Bool) (s : State) :
    setAddr i ap a force s =
      if force = true ∨ (s.memAt i).currentTar ≠ some a then
        (s.apWritten (tarAddr ap) a 1).setTar i (some a)
      else s := by
  simp only [setAddr, writeApCore_eq _ _ _ _ Nat.one_pos]

/-- After `SetSize` the SIZE of the cache is that of the width (R257). -/
theorem setSize_size (i : Nat) (ap : ApConfig) (w : Width) (s : State) (hi : i < s.mem.length) :
    cswSize ((setSize i ap w s).memAt i).currentCsw = sizeEnc w ∧
      (setSize i ap w s).mem.length = s.mem.length := by
  have hl : (seedCsw i ap s).mem.length = s.mem.length := by
    unfold seedCsw
    split
    · simp [readApCore_eq _ _ _ _ Nat.one_pos]
    · rfl
  unfold setSize
  dsimp only
  split
  · rw [writeApCore_eq _ _ _ _ Nat.one_pos, State.memAt_setCsw _ _ _ (by simpa [hl] using hi)]
    simp [cswSize_withSize, hl]
  · rename_i h
    exact ⟨not_not.mp h, hl⟩

/-- `SetAddr` leaves the CSW cache. -/
theorem setAddr_csw (i : Nat) (ap : ApConfig) (a : Word32) (force : Bool) (s : State)
    (hi : i < s.mem.length) :
    ((setAddr i ap a force s).memAt i).currentCsw = (s.memAt i).currentCsw ∧
      (setAddr i ap a force s).mem.length = s.mem.length := by
  rw [setAddr_eq]
  split
  · rw [State.memAt_setTar _ _ _ (by simpa using hi)]
    simp
  · simp

end Sys2Proof.Machine
end

