-- ==== Sys2Proof/Laws/Moves.lean ====
section
/-! SUPPORT. What a command can do to the state, said once: a chain of moves, each one whole JTAG access,
one SWD packet, idle clocks, or an update of one cache. An invariant of commands is proved for the moves. -/

namespace Sys2Proof.Machine

/-- A SELECT write scan or packet goes by its own move. -/
def isSelectScan (c : IrCode) (scan : TransportEvent) : Prop :=
  c = .dpacc ∧ ∃ tdi cmp, scan = .drScan35 tdi cmp ∧ tdi.extractLsb' 0 3 = 0b100#3

/-- One move of a command. -/
inductive Move : State → State → Prop where
  /-- one JTAG access that writes no SELECT (R180) -/
  | jtag (s : State) (c : IrCode) (scan : TransportEvent) (n : Nat) (ack : Option Word3) :
      s.active = .jtag → scanUnder c scan = true → 0 < n → ¬isSelectScan c scan →
      Move s { s.after (jtagEvents s.cfg s.dpJtag.ir c scan n) n with
        dpJtag := { s.dpJtag with ir := some (irValue c) }, lastAck := ack }
  /-- one JTAG SELECT write (R131) -/
  | jtagSelect (s : State) (v : Word32) (n : Nat) : s.active = .jtag → 0 < n →
      Move s { s.after (jtagEvents s.cfg s.dpJtag.ir .dpacc (plainScan v 0b10#2 false) n) n with
        dpJtag := { s.dpJtag with currentSelect := some v, ir := some (irValue .dpacc) } }
  /-- SWD read packets (R220) -/
  | swdRead (s : State) (apndp : Bool) (a : BitVec 2) (cmp : Cmp 32) (n : Nat) (ack : Option Word3) :
      s.active = .swd →
      Move s { s.after (repeatEvents n (readPacket s.cfg apndp a cmp)) (3 * n) with lastAck := ack }
  /-- SWD write packets, not of SELECT -/
  | swdWrite (s : State) (apndp : Bool) (a : BitVec 2) (v : Word32) (n : Nat) (ack : Option Word3) :
      s.active = .swd → (apndp = true ∨ a ≠ 0b10#2) →
      Move s { s.after (repeatEvents n (writePacket s.cfg apndp a v)) n with lastAck := ack }
  /-- SWD SELECT write packets (R131) -/
  | swdSelect (s : State) (v : Word32) (n : Nat) (ack : Option Word3) : s.active = .swd → 0 < n →
      Move s { s.after (repeatEvents n (writePacket s.cfg false 0b10#2 v)) n with
        dpSwd := { s.dpSwd with currentSelect := some v }, lastAck := ack }
  /-- idle clocks (R11) -/
  | idle (s : State) (n : Nat) : Move s (s.after (idleEvents n) 0)
  /-- `orun_detect` latched (R25) -/
  | orun (s : State) (k : Transport) (b : Bool) : Move s (s.setOrun k b)
  /-- a MEM-AP cache written (R27, R28) -/
  | mem (s : State) (i : Nat) (m : MemApState) : Move s (s.setMem i m)

/-- A chain of moves. -/
inductive Moves : State → State → Prop where
  | refl (s : State) : Moves s s
  | tail {s t u : State} : Moves s t → Move t u → Moves s u

theorem Moves.single {s t : State} (h : Move s t) : Moves s t := .tail (.refl s) h

theorem Moves.trans {s t u : State} (h : Moves s t) (g : Moves t u) : Moves s u := by
  induction g with
  | refl => exact h
  | tail _ m ih => exact .tail ih m

/-- What every move keeps holds after a chain of them. -/
theorem Moves.keeps {P : State → Prop} (hP : ∀ s t, Move s t → P s → P t) {s t : State}
    (h : Moves s t) (hs : P s) : P t := by
  induction h with
  | refl => exact hs
  | tail _ m ih => exact hP _ _ m ih

/-- What a chain of moves leaves: configuration, counter, transport, fatal state, responses, port and the
number of MEM-AP caches; and the trace only grows. -/
structure State.Kept (s t : State) : Prop where
  cfg : t.cfg = s.cfg
  pc : t.pc = s.pc
  active : t.active = s.active
  fatal : t.fatal = s.fatal
  responses : t.responses = s.responses
  port : t.port = s.port
  memLength : t.mem.length = s.mem.length
  trace : ∃ es, t.trace = s.trace ++ es

theorem State.Kept.refl (s : State) : s.Kept s := ⟨rfl, rfl, rfl, rfl, rfl, rfl, rfl, [], by simp⟩

theorem Move.kept {s t : State} (h : Move s t) : s.Kept t := by
  cases h with
  | orun k b =>
    cases k <;> exact ⟨rfl, rfl, rfl, rfl, rfl, rfl, rfl, [], by simp [State.setOrun, State.setDp]⟩
  | mem i m =>
    exact ⟨rfl, rfl, rfl, rfl, rfl, rfl, by simp [State.setMem], [], by simp [State.setMem]⟩
  | _ => exact ⟨rfl, rfl, rfl, rfl, rfl, rfl, rfl, _, rfl⟩

theorem Moves.kept {s t : State} (h : Moves s t) : s.Kept t := by
  induction h with
  | refl => exact .refl _
  | tail _ m ih =>
    have k := m.kept
    obtain ⟨es, he⟩ := ih.trace
    obtain ⟨fs, hf⟩ := k.trace
    exact ⟨k.cfg.trans ih.cfg, k.pc.trans ih.pc, k.active.trans ih.active, k.fatal.trans ih.fatal,
      k.responses.trans ih.responses, k.port.trans ih.port, k.memLength.trans ih.memLength,
      es ++ fs, by rw [hf, he, List.append_assoc]⟩

/-! ### The operations are chains of moves -/

/-- The low bits of a shift-in value. -/
theorem drValue_low (data : Word32) (a : BitVec 2) (rnw : Bool) :
    (drValue data a rnw).extractLsb' 0 3 = a ++ BitVec.ofBool rnw := by
  have ha : a = 0b00#2 ∨ a = 0b01#2 ∨ a = 0b10#2 ∨ a = 0b11#2 := by
    revert a
    decide
  apply BitVec.eq_of_getLsbD_eq
  intro i hi
  rcases ha with rfl | rfl | rfl | rfl <;> cases rnw <;> interval_cases i <;> simp [drValue]

theorem not_selectScan (c : IrCode) (data : Word32) (a : BitVec 2) (rnw : Bool) (cmp : Cmp 35)
    (h : c ≠ .dpacc ∨ rnw = true ∨ a ≠ 0b10#2) :
    ¬isSelectScan c (.drScan35 (drValue data a rnw) cmp) := by
  rintro ⟨rfl, tdi, cmp', he, hs⟩
  injection he with he
  rw [← he, drValue_low] at hs
  have low : ∀ (b : BitVec 2) (r : Bool), b ++ BitVec.ofBool r = 0b100#3 → r = false ∧ b = 0b10#2 := by
    decide
  obtain ⟨hr, ha⟩ := low a rnw hs
  rcases h with h | h | h
  · exact h rfl
  · rw [hr] at h
    cases h
  · exact h ha

theorem jtagAccess_move (c : IrCode) (a : BitVec 2) (rnw : Bool) (data : Word32) (n : Nat)
    (cmp : Cmp 32) (s : State) (hs : s.active = .jtag) (hn : 0 < n)
    (hc : scanUnder c (.drScan35 (drValue data a rnw) (widenCmp s.cfg cmp)) = true)
    (h : c ≠ .dpacc ∨ rnw = true ∨ a ≠ 0b10#2) :
    Moves s (jtagAccess c a rnw data n cmp s).1 := by
  rw [jtagAccess_eq c a rnw data n cmp s hn]
  exact .single (.jtag s c _ n _ hs hc hn (not_selectScan c data a rnw _ h))

theorem swdAccess_move (apndp rnw : Bool) (a : BitVec 2) (data : Word32) (n : Nat) (cmp : Cmp 32)
    (s : State) (hs : s.active = .swd) (hn : 0 < n) (h : apndp = true ∨ rnw = true ∨ a ≠ 0b10#2) :
    Moves s (swdAccess apndp rnw a data n cmp s).1 := by
  cases rnw with
  | true =>
    rw [swdAccess_read apndp a data n cmp s hn]
    exact .single (.swdRead s apndp a cmp n _ hs)
  | false =>
    rw [swdAccess_write apndp a data n cmp s hn]
    refine .single (.swdWrite s apndp a data n _ hs ?_)
    rcases h with h | h | h
    · exact .inl h
    · cases h
    · exact .inr h

theorem dpAccess_moves (d : BitVec 2) (rnw : Bool) (data : Word32) (n : Nat) (cmp : Cmp 32) (s : State)
    (hn : 0 < n) (h : rnw = true ∨ d ≠ 0b10#2) : Moves s (dpAccess d rnw data n cmp s).1 := by
  cases hk : s.active with
  | jtag =>
    rw [dpAccess_jtag d rnw data n cmp s hk]
    exact jtagAccess_move .dpacc d rnw data n cmp s hk hn rfl (.inr h)
  | swd =>
    rw [dpAccess_swd d rnw data n cmp s hk]
    exact swdAccess_move false rnw d data n cmp s hk hn (.inr h)

theorem writeSelect_moves (v : Word32) (n : Nat) (s : State) (hn : 0 < n) :
    Moves s (writeSelect v n s) := by
  cases hk : s.active with
  | jtag =>
    rw [writeSelect_jtag v n s hk hn]
    exact .single (.jtagSelect s v n hk hn)
  | swd =>
    rw [writeSelect_swd v n s hk hn]
    exact .single (.swdSelect s v n _ hk hn)

theorem selectDpBank_moves (b : Word32) (s : State) : Moves s (selectDpBank b s) := by
  unfold selectDpBank
  dsimp only
  split
  · exact writeSelect_moves _ 1 s Nat.one_pos
  · exact .refl s

theorem selectForAp_moves (a : Word32) (s : State) : Moves s (selectForAp a s) := by
  rw [selectForAp_cases]
  split
  · exact .refl s
  · exact writeSelect_moves _ 1 s Nat.one_pos

theorem cycle_moves (n : Nat) (s : State) : Moves s (s.cycle n) := by
  rw [State.cycle_eq_after]
  exact .single (.idle s n)

theorem apAccess_moves (a : Word32) (rnw : Bool) (data : Word32) (n : Nat) (cmp : Cmp 32) (s : State)
    (hn : 0 < n) : Moves s (apAccess a rnw data n cmp s).1 := by
  unfold apAccess
  cases hk : s.active with
  | jtag => exact jtagAccess_move .apacc _ rnw data n cmp s hk hn rfl (.inl (by decide))
  | swd => exact swdAccess_move true rnw _ data n cmp s hk hn (.inl rfl)

theorem readApCore_moves (a : Word32) (n : Nat) (cmp : Cmp 32) (s : State) (hn : 0 < n) :
    Moves s (readApCore a n cmp s).1 :=
  ((((selectForAp_moves a s).trans (apAccess_moves a true 0#32 1 (noCmp 32) _ Nat.one_pos)).trans
    (cycle_moves _ _)).trans (dpAccess_moves 0b11#2 true 0#32 n cmp _ hn (.inl rfl)))

theorem writeApCore_moves (a v : Word32) (n : Nat) (s : State) (hn : 0 < n) :
    Moves s (writeApCore a v n s) := by
  have h := (selectForAp_moves a s).trans (apAccess_moves a false v n (noCmp 32) _ hn)
  unfold writeApCore
  dsimp only
  refine .trans ?_ (cycle_moves _ _)
  split
  · exact h.trans (cycle_moves _ _)
  · exact h

theorem setCsw_moves (i : Nat) (v : Word32) (s : State) : Moves s (s.setCsw i v) := .single (.mem s i _)

theorem setTar_moves (i : Nat) (v : Option Word32) (s : State) : Moves s (s.setTar i v) :=
  .single (.mem s i _)

theorem rawCoherence_moves (a : Word32) (v : Option Word32) (s : State) :
    Moves s (rawCoherence a v s) := by
  unfold rawCoherence
  repeat' split
  all_goals first | exact .refl s | exact setTar_moves _ _ s | exact setCsw_moves _ _ s

theorem seedCsw_moves (i : Nat) (ap : ApConfig) (s : State) : Moves s (seedCsw i ap s) := by
  unfold seedCsw
  dsimp only
  split
  · exact (readApCore_moves _ 1 _ s Nat.one_pos).trans (setCsw_moves _ _ _)
  · exact .refl s

theorem setSize_moves (i : Nat) (ap : ApConfig) (w : Width) (s : State) :
    Moves s (setSize i ap w s) := by
  unfold setSize
  dsimp only
  split
  · exact ((seedCsw_moves i ap s).trans (writeApCore_moves _ _ 1 _ Nat.one_pos)).trans
      (setCsw_moves _ _ _)
  · exact seedCsw_moves i ap s

theorem setAddr_moves (i : Nat) (ap : ApConfig) (a : Word32) (force : Bool) (s : State) :
    Moves s (setAddr i ap a force s) := by
  unfold setAddr
  split
  · exact (writeApCore_moves _ _ 1 s Nat.one_pos).trans (setTar_moves _ _ _)
  · exact .refl s

theorem memWriteAt_moves (a v : Word32) (w : Width) (n : Nat) (force : Bool) (i : Nat) (ap : ApConfig)
    (s : State) (hn : 0 < n) : Moves s (memWriteAt a v w n force i ap s).1 := by
  unfold memWriteAt afterDrwWrite incrementAddr
  dsimp only
  refine .trans ?_ (cycle_moves _ _)
  have h := ((setSize_moves i ap w s).trans (setAddr_moves i ap a force _)).trans
    (writeApCore_moves (drwAddr ap) (getWData w a v) n _ hn)
  split
  · exact h.trans (setTar_moves _ _ _)
  · exact h.trans (setTar_moves _ _ _)

theorem memReadAt_moves (a : Word32) (w : Width) (o : ReadOpts) (force : Bool) (i : Nat) (ap : ApConfig)
    (s : State) (hn : 0 < o.attempts) : Moves s (memReadAt a w o force i ap s).1 := by
  unfold memReadAt incrementAddr
  dsimp only
  exact ((((setSize_moves i ap w s).trans (setAddr_moves i ap a force _)).trans
    (readApCore_moves (drwAddr ap) o.attempts _ _ hn)).trans (setTar_moves _ _ _)).trans
    (cycle_moves _ _)

theorem jtagIdcode_moves (n : Nat) (cmp : Cmp 32) (s : State) (hs : s.active = .jtag) (hn : 0 < n) :
    Moves s (jtagIdcode n cmp s).1 := by
  rw [jtagIdcode_eq n cmp s hn]
  refine .single (.jtag s .idcode (.drScan32 0#32 cmp) n s.lastAck hs rfl hn ?_)
  rintro ⟨h, _⟩
  cases h

theorem jtagDpRead2_moves (d : BitVec 2) (n : Nat) (cmp : Cmp 32) (s : State) (hs : s.active = .jtag)
    (hn : 0 < n) : Moves s (jtagDpRead2 d n cmp s).1 := by
  have h1 := jtagAccess_move .dpacc d true 0#32 1 (noCmp 32) s hs Nat.one_pos rfl (.inr (.inl rfl))
  exact h1.trans (jtagAccess_move .dpacc 0b11#2 true 0#32 n cmp _ (h1.kept.active.trans hs) hn rfl
    (.inr (.inl rfl)))

theorem dpBankFor_moves (r : DpName) (s : State) : Moves s (dpBankFor r s) := by
  cases r <;> first | exact selectDpBank_moves _ s | exact .refl s

theorem dpRead_moves (r : DpName) (n : Nat) (cmp : Cmp 32) (s : State) (hn : 0 < n) :
    Moves s (dpRead r n cmp s).1 := by
  unfold dpRead
  cases hk : s.active with
  | jtag =>
    cases r <;> first
      | exact jtagIdcode_moves n cmp s hk hn
      | exact jtagAccess_move .dpacc 0b11#2 true 0#32 n cmp s hk hn rfl (.inr (.inl rfl))
      | exact jtagDpRead2_moves _ n cmp s hk hn
  | swd =>
    have h := dpBankFor_moves r s
    exact h.trans (swdAccess_move false true _ 0#32 n cmp _ (h.kept.active.trans hk) hn
      (.inr (.inl rfl)))

theorem dpWrite_moves (r : DpName) (v : Word32) (n : Nat) (s : State) (hn : 0 < n)
    (hw : r = .wcr → s.active = .swd) : Moves s (dpWrite r v n s) := by
  cases r with
  | select => exact writeSelect_moves v n s hn
  | abort =>
    show Moves s (writeAbort v n s)
    unfold writeAbort
    cases hk : s.active with
    | jtag =>
      refine jtagAccess_move .abort 0b00#2 false v n (noCmp 32) s hk hn ?_ (.inl (by decide))
      simp [scanUnder, drValue_low]
    | swd => exact swdAccess_move false false 0b00#2 v n (noCmp 32) s hk hn (.inr (.inr (by decide)))
  | ctrlStat =>
    show Moves s (writeCtrlStat v n s)
    unfold writeCtrlStat
    dsimp only
    refine .trans ?_ (.single (.orun _ _ _))
    split
    · exact dpAccess_moves 0b01#2 false v n (noCmp 32) s hn (.inr (by decide))
    · exact (selectDpBank_moves 0#32 s).trans
        (dpAccess_moves 0b01#2 false v n (noCmp 32) _ hn (.inr (by decide)))
  | wcr =>
    have h := selectDpBank_moves 1#32 s
    exact h.trans (swdAccess_move false false 0b01#2 v n (noCmp 32) _
      (h.kept.active.trans (hw rfl)) hn (.inr (.inr (by decide))))
  | idcode => exact .refl s
  | rdbuff => exact .refl s
  | resend => exact .refl s

/-- `read_dp` up to its response. -/
theorem readDpBody_moves (r : DpRef) (o : ReadOpts) (s : State) (hn : 0 < o.attempts) :
    Moves s (readDpBody r o s).1 := by
  unfold readDpBody
  split
  · exact .refl s
  · split
    · exact dpRead_moves _ _ _ s hn
    · exact .refl s

/-- WCR is resolved on SWD only (R121). -/
theorem resolveDp_wcr (k : Transport) (read : Bool) (r : DpRef) (h : resolveDp k read r = some .wcr) :
    k = .swd := by
  cases r with
  | name n =>
    cases k
    · cases n <;> simp [resolveDp, dpKnown] at h
    · rfl
  | addr d =>
    cases k
    · revert h
      cases read <;> simp only [resolveDp, dpReadAddr, dpWriteAddr] <;> split <;> split <;> simp_all
    · rfl
  | other t => simp [resolveDp] at h

/-- `write_dp` up to its response. -/
theorem writeDpBody_moves (r : DpRef) (v : Word32) (o : WriteOpts) (s : State) (hn : 0 < o.attempts) :
    Moves s (writeDpBody r v o s).1 := by
  unfold writeDpBody
  split
  · exact .refl s
  · rename_i n hr
    split
    · exact dpWrite_moves n v _ s hn fun h => resolveDp_wcr _ _ r (h ▸ hr)
    · exact .refl s

end Sys2Proof.Machine
end

