-- ==== Sys2Proof/Laws/Exec.lean ====
section
/-! SUPPORT. What `exec` can answer, said once for the commands and once for the wire frames. -/

namespace Sys2Proof.Machine

/-- How a command that was admitted ends: a chain of moves, a fatal error, or a session command. -/
inductive Ending (i : Instr) (s : State) : State × Response → Prop where
  | moved (t : State) (r : Response) : Moves s t → Ending i s (t, r)
  | fatal (c : FatalCode) : Ending i s ({ s with fatal := some c }, failed (.fatal c))
  | setDp (k : Transport) : i = .setDp k → s.cfg.has k = true → Ending i s (setDpBody k s)
  | resetDp : i = .resetDp → Ending i s (resetDpBody s)

theorem withAddr_ending (i : Instr) (a : Option Word32) (body : Word32 → State → State × Response)
    (s : State) (h : ∀ x, Ending i s (body x s)) : Ending i s (withAddr a body s) := by
  cases a with
  | none => exact .fatal .missingContext
  | some x => exact h x

theorem withMemAp_ending (i : Instr) (r : ApRef) (body : Nat → ApConfig → State → State × Response)
    (s : State) (h : ∀ j ap, Ending i s (body j ap s)) : Ending i s (withMemAp r body s) := by
  unfold withMemAp
  split
  · exact .fatal .apOwnership
  · exact h _ _

/-- `read_dp`, `write_dp`, `mem_read`, `mem_write` as parts of a composition, from a session without a
fatal state: a chain of moves, or a fatal error. -/
theorem part_moves (n : Nat) (hn : 0 < n) (body : State → State × Response) (s : State)
    (hf : s.fatal = none) (h : Moves s (body s).1) : Moves s (checkAdmission [n] body s).1 := by
  rw [checkAdmission_run _ _ _ hf (by simp; omega)]
  exact h

/-- Every command is admitted on its attempt counts (R292), and then ends as `Ending` says. -/
theorem exec_command (i : Instr) (h : i.isCommand = true) :
    ∃ body, (∀ s, exec i s = command (checkAdmission (attemptCounts i) body) s) ∧
      ∀ s, s.fatal = none → 0 ∉ attemptCounts i → Ending i s (body s) := by
  have pos : ∀ {n : Nat}, 0 ∉ [n] → 0 < n := fun {n} hn => by
    simp only [List.mem_singleton] at hn
    omega
  cases i with
  | readDp r o => exact ⟨_, fun _ => rfl, fun s _ hn => .moved _ _ (readDpBody_moves r o s (pos hn))⟩
  | writeDp r v o =>
    exact ⟨_, fun _ => rfl, fun s _ hn => .moved _ _ (writeDpBody_moves r v o s (pos hn))⟩
  | writeReadDp r v o =>
    refine ⟨_, fun _ => rfl, fun s hf hn => .moved _ _ ?_⟩
    simp only [attemptCounts, List.mem_cons, List.not_mem_nil, or_false, not_or] at hn
    have h1 : Moves s (writeDpPart r v { attempts := o.wAttempts } s).1 :=
      part_moves o.wAttempts (by omega) _ s hf (writeDpBody_moves r v _ s (by simp; omega))
    exact h1.trans (part_moves o.rAttempts (by omega) _ _ (h1.kept.fatal.trans hf)
      (readDpBody_moves r _ _ (by simp; omega)))
  | readAp a o =>
    refine ⟨_, fun _ => rfl, fun s _ hn => ?_⟩
    cases a with
    | none => exact .fatal .missingContext
    | some a =>
      exact .moved _ _ ((readApCore_moves a _ _ s (pos hn)).trans (rawCoherence_moves _ _ _))
  | writeAp a v o =>
    refine ⟨_, fun _ => rfl, fun s _ hn => ?_⟩
    cases a with
    | none => exact .fatal .missingContext
    | some a =>
      exact .moved _ _ ((writeApCore_moves a v _ s (pos hn)).trans (rawCoherence_moves _ _ _))
  | setApSelect a =>
    refine ⟨_, fun _ => rfl, fun s _ _ => ?_⟩
    cases a with
    | none => exact .fatal .missingContext
    | some a => exact .moved _ _ (selectForAp_moves a s)
  | memSetSize r w =>
    exact ⟨_, fun _ => rfl, fun s _ _ =>
      withMemAp_ending _ r _ s fun _ _ => .moved _ _ (setSize_moves _ _ _ s)⟩
  | memSetAddr r a f =>
    exact ⟨_, fun _ => rfl, fun s _ _ => withAddr_ending _ a _ s fun _ =>
      withMemAp_ending _ r _ s fun _ _ => .moved _ _ (setAddr_moves _ _ _ _ s)⟩
  | memRead r a w o f =>
    exact ⟨_, fun _ => rfl, fun s _ hn => withAddr_ending _ a _ s fun _ =>
      withMemAp_ending _ r _ s fun _ _ => .moved _ _ (memReadAt_moves _ _ o f _ _ s (pos hn))⟩
  | memWrite r a v w o f =>
    exact ⟨_, fun _ => rfl, fun s _ hn => withAddr_ending _ a _ s fun _ =>
      withMemAp_ending _ r _ s fun _ _ => .moved _ _ (memWriteAt_moves _ _ _ _ f _ _ s (pos hn))⟩
  | memWriteRead r a v w o f =>
    refine ⟨_, fun _ => rfl, fun s hf hn => ?_⟩
    simp only [attemptCounts, List.mem_cons, List.not_mem_nil, or_false, not_or] at hn
    have hw : 0 < o.wAttempts := by omega
    have hr : 0 < o.rAttempts := by omega
    unfold memWriteReadBody memWritePart memReadPart
    dsimp only
    rw [checkAdmission_run _ _ s hf (by simp; omega)]
    cases a with
    | none =>
      rw [checkAdmission_refused _ _ _ (by simp [withAddr, raiseFatal])]
      exact .fatal .missingContext
    | some a =>
      dsimp only [withAddr, withMemAp]
      cases hm : memApOf s.cfg r with
      | none =>
        dsimp only
        rw [checkAdmission_refused _ _ _ (by simp [raiseFatal])]
        exact .fatal .apOwnership
      | some p =>
        dsimp only
        have h1 := memWriteAt_moves a v (normWidth w) o.wAttempts f p.1 p.2 s hw
        rw [checkAdmission_run _ _ _ (h1.kept.fatal.trans hf) (by simp; omega)]
        simp only [withAddr, withMemAp, h1.kept.cfg, hm]
        exact .moved _ _ (h1.trans (memReadAt_moves a _ _ f p.1 p.2 _ (by simpa using hr)))
  | setDp k =>
    refine ⟨_, fun _ => rfl, fun s _ _ => ?_⟩
    by_cases hk : s.cfg.has k = true
    · exact .setDp k rfl hk
    · rw [show setDpBody k s = raiseFatal .protocolMisuse s by simp [setDpBody, hk]]
      exact .fatal .protocolMisuse
  | resetDp => exact ⟨_, fun _ => rfl, fun s _ _ => .resetDp rfl⟩
  | _ => cases h

/-- Every wire frame is the sending of its frame on its transport. -/
theorem exec_frame (i : Instr) (k : Transport) (h : frameTransport i = some k) :
    ∃ body, ∀ s, exec i s = wireFrame k body s := by
  cases i <;> first
    | (simp [frameTransport, itemTransport, encode, encodeByte, encodeSwdWrite] at h
       subst h
       exact ⟨_, fun _ => rfl⟩)
    | cases h

end Sys2Proof.Machine
end

