-- ==== Sys2Proof/Laws/Frames.lean ====
section
/-! SUPPORT. What the wire frames are, what each leaves, and how a command or a frame can end. -/

namespace Sys2Proof.Machine

/-! ### Coherence after a frame -/

theorem rawCoherence_dp (a : Word32) (v : Option Word32) (s : State) :
    (rawCoherence a v s).dpJtag = s.dpJtag ∧ (rawCoherence a v s).dpSwd = s.dpSwd ∧
      (rawCoherence a v s).trace = s.trace := by
  unfold rawCoherence
  repeat' split
  all_goals exact ⟨rfl, rfl, rfl⟩

theorem apFrameCoherence_moves (a : BitVec 2) (v : Option Word32) (s : State) :
    Moves s (apFrameCoherence a v s) := by
  unfold apFrameCoherence
  split
  · exact .refl s
  · exact rawCoherence_moves _ _ _

theorem apFrameCoherence_dp (a : BitVec 2) (v : Option Word32) (s : State) :
    (apFrameCoherence a v s).dpJtag = s.dpJtag ∧ (apFrameCoherence a v s).dpSwd = s.dpSwd ∧
      (apFrameCoherence a v s).trace = s.trace := by
  unfold apFrameCoherence
  split
  · exact ⟨rfl, rfl, rfl⟩
  · exact rawCoherence_dp _ _ _

theorem dpWriteCoherence_kept (a : BitVec 2) (v : Word32) (s : State) :
    s.Kept (dpWriteCoherence a v s) := by
  unfold dpWriteCoherence
  cases hk : s.active <;> repeat' split
  all_goals first
    | exact .refl _
    | exact ⟨rfl, rfl, rfl, rfl, rfl, rfl, rfl, [],
        by simp [State.setOrun, State.setSelect, State.setDp]⟩

/-! ### The frames -/

/-- The six kinds of frame. -/
theorem frame_cases (i : Instr) (h : ¬i.isCommand = true) :
    (∃ c, i = irInstr c) ∨ (∃ d a r, i = .drAcc35 d a r) ∨ (∃ d k, i = .drAcc35Capture d k) ∨
      i = .drIdcode32 ∨ (∃ p a, i = swdReadInstr p a) ∨ ∃ p a v, i = swdWriteInstr p a v := by
  cases i with
  | irAbort => exact .inl ⟨.abort, rfl⟩
  | irDpacc => exact .inl ⟨.dpacc, rfl⟩
  | irApacc => exact .inl ⟨.apacc, rfl⟩
  | irIdcode => exact .inl ⟨.idcode, rfl⟩
  | irBypass => exact .inl ⟨.bypass, rfl⟩
  | drAcc35 d a r => exact .inr (.inl ⟨_, _, _, rfl⟩)
  | drAcc35Capture d k => exact .inr (.inr (.inl ⟨_, _, rfl⟩))
  | drIdcode32 => exact .inr (.inr (.inr (.inl rfl)))
  | swdDpRA00 => exact .inr (.inr (.inr (.inr (.inl ⟨false, 0b00#2, rfl⟩))))
  | swdDpRA01 => exact .inr (.inr (.inr (.inr (.inl ⟨false, 0b01#2, rfl⟩))))
  | swdDpRA10 => exact .inr (.inr (.inr (.inr (.inl ⟨false, 0b10#2, rfl⟩))))
  | swdDpRA11 => exact .inr (.inr (.inr (.inr (.inl ⟨false, 0b11#2, rfl⟩))))
  | swdApRA00 => exact .inr (.inr (.inr (.inr (.inl ⟨true, 0b00#2, rfl⟩))))
  | swdApRA01 => exact .inr (.inr (.inr (.inr (.inl ⟨true, 0b01#2, rfl⟩))))
  | swdApRA10 => exact .inr (.inr (.inr (.inr (.inl ⟨true, 0b10#2, rfl⟩))))
  | swdApRA11 => exact .inr (.inr (.inr (.inr (.inl ⟨true, 0b11#2, rfl⟩))))
  | swdDpWA00 v => exact .inr (.inr (.inr (.inr (.inr ⟨false, 0b00#2, v, rfl⟩))))
  | swdDpWA01 v => exact .inr (.inr (.inr (.inr (.inr ⟨false, 0b01#2, v, rfl⟩))))
  | swdDpWA10 v => exact .inr (.inr (.inr (.inr (.inr ⟨false, 0b10#2, v, rfl⟩))))
  | swdDpWA11 v => exact .inr (.inr (.inr (.inr (.inr ⟨false, 0b11#2, v, rfl⟩))))
  | swdApWA00 v => exact .inr (.inr (.inr (.inr (.inr ⟨true, 0b00#2, v, rfl⟩))))
  | swdApWA01 v => exact .inr (.inr (.inr (.inr (.inr ⟨true, 0b01#2, v, rfl⟩))))
  | swdApWA10 v => exact .inr (.inr (.inr (.inr (.inr ⟨true, 0b10#2, v, rfl⟩))))
  | swdApWA11 v => exact .inr (.inr (.inr (.inr (.inr ⟨true, 0b11#2, v, rfl⟩))))
  | _ => exact absurd rfl h

theorem subAddress_cases (a : BitVec 2) : a = 0b00#2 ∨ a = 0b01#2 ∨ a = 0b10#2 ∨ a = 0b11#2 := by
  revert a
  decide

theorem exec_irInstr (c : IrCode) (s : State) :
    exec (irInstr c) s = wireFrame .jtag (irFrame c) s := by
  cases c <;> rfl

theorem exec_swdReadInstr (p : Bool) (a : BitVec 2) (s : State) :
    exec (swdReadInstr p a) s =
      wireFrame .swd (if p then swdApFrame true a 0#32 else swdDpFrame true a 0#32) s := by
  rcases subAddress_cases a with rfl | rfl | rfl | rfl <;> cases p <;> rfl

theorem exec_swdWriteInstr (p : Bool) (a : BitVec 2) (v : Word32) (s : State) :
    exec (swdWriteInstr p a v) s =
      wireFrame .swd (if p then swdApFrame false a v else swdDpFrame false a v) s := by
  rcases subAddress_cases a with rfl | rfl | rfl | rfl <;> cases p <;> rfl

/-- A frame that answers a next state did nothing in the fatal state, or ran on its transport. -/
theorem wireFrame_inv {k : Transport} {body : State → State} {s t : State}
    (h : wireFrame k body s = .next t) : t = s ∨ s.fatal = none ∧ s.active = k ∧ t = body s := by
  unfold wireFrame at h
  split at h
  · exact .inl (by cases h; rfl)
  · rename_i hf
    split at h
    · rename_i hk
      cases h
      exact .inr ⟨by simpa using hf, hk, rfl⟩
    · cases h

/-! ### What frames leave -/

theorem State.Kept.trans {s t u : State} (h : s.Kept t) (k : t.Kept u) : s.Kept u := by
  obtain ⟨es, he⟩ := h.trace
  obtain ⟨fs, hf⟩ := k.trace
  exact ⟨k.cfg.trans h.cfg, k.pc.trans h.pc, k.active.trans h.active, k.fatal.trans h.fatal,
    k.responses.trans h.responses, k.port.trans h.port, k.memLength.trans h.memLength,
    es ++ fs, by rw [hf, he, List.append_assoc]⟩

theorem State.after_kept (s : State) (es : List TransportEvent) (k : Nat) : s.Kept (s.after es k) :=
  ⟨rfl, rfl, rfl, rfl, rfl, rfl, rfl, es, rfl⟩

theorem State.after_acked_kept (s : State) (es : List TransportEvent) (k : Nat) (x : Option Word3) :
    s.Kept { s.after es k with lastAck := x } :=
  ⟨rfl, rfl, rfl, rfl, rfl, rfl, rfl, es, rfl⟩

theorem irFrame_kept (c : IrCode) (s : State) : s.Kept (irFrame c s) := by
  show s.Kept (jtagSetIr c s)
  rw [jtagSetIr_eq]
  exact ⟨rfl, rfl, rfl, rfl, rfl, rfl, rfl, _, rfl⟩

/-- `DR_ACC35` (R82): one access under its class, then the cache that its write belongs to. -/
theorem dr35Frame_eq (d : Word32) (a : BitVec 2) (r : Bool) (s : State) :
    dr35Frame d a r s =
      let c := dr35Class s.dpJtag.ir
      let d' := if r then 0#32 else d
      let u : State := { s.after (jtagEvents s.cfg s.dpJtag.ir c (plainScan d' a r) 1) 1 with
        dpJtag := { s.dpJtag with ir := some (irValue c) } }
      match c with
      | .dpacc => if r then u else dpWriteCoherence a d' u
      | .apacc => apFrameCoherence a (if r then none else some d') u
      | _ => u := by
  cases hc : dr35Class s.dpJtag.ir <;>
    simp only [dr35Frame, hc, jtagAccess_plain _ _ _ _ 1 s Nat.one_pos]

theorem dr35Frame_kept (d : Word32) (a : BitVec 2) (r : Bool) (s : State) :
    s.Kept (dr35Frame d a r s) := by
  rw [dr35Frame_eq]
  have hu : ∀ es k dp, s.Kept ({ s.after es k with dpJtag := dp } : State) := fun es _ _ =>
    ⟨rfl, rfl, rfl, rfl, rfl, rfl, rfl, es, rfl⟩
  dsimp only
  split
  · split
    · exact hu _ _ _
    · exact (hu _ _ _).trans (dpWriteCoherence_kept _ _ _)
  · exact (hu _ _ _).trans (apFrameCoherence_moves _ _ _).kept
  · exact hu _ _ _

/-- `DR_IDCODE32` (R83, R188): IR IDCODE, one 32-bit scan of 0, the settle delay. -/
theorem dr32Frame_eq (s : State) :
    dr32Frame s =
      { s.after (jtagEvents s.cfg s.dpJtag.ir .idcode (.drScan32 0#32 (noCmp 32)) 1) 1 with
        dpJtag := { s.dpJtag with ir := some (irValue .idcode) } } := by
  simp only [dr32Frame, jtagIdcode_eq _ _ s Nat.one_pos]

theorem dr35Class_cases (ir : Option Word4) :
    dr35Class ir = .abort ∧ ir = some 0x8#4 ∨ dr35Class ir = .apacc ∧ ir = some 0xB#4 ∨
      dr35Class ir = .dpacc ∧ ir ≠ some 0x8#4 ∧ ir ≠ some 0xB#4 := by
  unfold dr35Class
  split
  · exact .inl ⟨rfl, ‹_›⟩
  · split
    · exact .inr (.inl ⟨rfl, ‹_›⟩)
    · exact .inr (.inr ⟨rfl, ‹_›, ‹_›⟩)

/-- Under every class but ABORT, whose commands write at sub-address 0 only, a lone 35-bit frame is moves
that commands make too. -/
theorem dr35Frame_moves (d : Word32) (a : BitVec 2) (r : Bool) (s : State) (hs : s.active = .jtag)
    (hi : s.dpJtag.ir ≠ some 0x8#4) : Moves s (dr35Frame d a r s) := by
  have access : ∀ c x, c = .dpacc ∨ c = .apacc → ¬(c = .dpacc ∧ a = 0b10#2 ∧ r = false) →
      Moves s (jtagAccess c a r x 1 (noCmp 32) s).1 := by
    intro c x hc h
    refine jtagAccess_move c a r x 1 (noCmp 32) s hs Nat.one_pos ?_ ?_
    · rcases hc with rfl | rfl <;> rfl
    · rcases hc with rfl | rfl
      · cases r <;> simp_all
      · exact .inl nofun
  unfold dr35Frame
  dsimp only
  rcases dr35Class_cases s.dpJtag.ir with ⟨-, h⟩ | ⟨hc, -⟩ | ⟨hc, -⟩
  · exact absurd h hi
  · rw [hc]
    exact (access _ _ (.inr rfl) (by simp)).trans (apFrameCoherence_moves _ _ _)
  · rw [hc]
    dsimp only
    cases r
    · by_cases ha : a = 0b10#2
      · subst ha
        rw [jtagAccess_plain _ _ _ _ _ _ Nat.one_pos]
        simpa [dpWriteCoherence, State.setSelect, State.setDp, State.dp, hs, State.after] using
          Moves.single (Move.jtagSelect s d 1 hs Nat.one_pos)
      · refine (access .dpacc d (.inl rfl) (by simp [ha])).trans ?_
        simp only [dpWriteCoherence, ha, if_false, Bool.false_eq_true]
        repeat' split
        all_goals first
          | exact .single (.orun _ _ _)
          | exact .refl _
    · exact access _ _ (.inl rfl) (by simp)

theorem dr32Frame_moves (s : State) (hs : s.active = .jtag) : Moves s (dr32Frame s) :=
  jtagIdcode_moves _ _ _ hs Nat.one_pos

theorem dr32Frame_kept (s : State) : s.Kept (dr32Frame s) := by
  rw [dr32Frame_eq]
  exact ⟨rfl, rfl, rfl, rfl, rfl, rfl, rfl, _, rfl⟩

theorem captureFrame_kept (d : Word32) (k : Word3) (s : State) : s.Kept (captureFrame d k s) :=
  ⟨rfl, rfl, rfl, rfl, rfl, rfl, rfl, [], by simp [captureFrame]⟩

theorem swdDpFrame_kept (r : Bool) (a : BitVec 2) (v : Word32) (s : State) :
    s.Kept (swdDpFrame r a v s) := by
  cases r
  · simp only [swdDpFrame, swdPacket_write]
    exact (s.after_acked_kept _ _ _).trans (dpWriteCoherence_kept _ _ _)
  · simp only [swdDpFrame, swdPacket_read]
    exact s.after_acked_kept _ _ _

theorem swdApFrame_kept (r : Bool) (a : BitVec 2) (v : Word32) (s : State) :
    s.Kept (swdApFrame r a v s) := by
  cases r
  · simp only [swdApFrame, swdPacket_write]
    exact (s.after_acked_kept _ _ _).trans (apFrameCoherence_moves _ _ _).kept
  · simp only [swdApFrame, swdPacket_read]
    exact (s.after_acked_kept _ _ _).trans (apFrameCoherence_moves _ _ _).kept

/-- What every frame leaves. -/
theorem frame_kept (i : Instr) (h : ¬i.isCommand = true) {s t : State} (ht : exec i s = .next t) :
    s.Kept t := by
  have run : ∀ {k : Transport} {body : State → State}, (∀ s : State, s.Kept (body s)) →
      wireFrame k body s = .next t → s.Kept t := by
    intro k body hk h
    rcases wireFrame_inv h with rfl | ⟨_, _, rfl⟩
    · exact .refl _
    · exact hk s
  rcases frame_cases i h with ⟨c, rfl⟩ | ⟨d, a, r, rfl⟩ | ⟨d, a, rfl⟩ | rfl | ⟨p, a, rfl⟩ |
    ⟨p, a, v, rfl⟩
  · rw [exec_irInstr] at ht
    exact run (irFrame_kept c) ht
  · exact run (dr35Frame_kept d a r) ht
  · exact run (captureFrame_kept d a) ht
  · exact run dr32Frame_kept ht
  · rw [exec_swdReadInstr] at ht
    cases p
    · exact run (fun s => swdDpFrame_kept _ _ _ s) (by simpa using ht)
    · exact run (swdApFrame_kept _ _ _) ht
  · rw [exec_swdWriteInstr] at ht
    cases p
    · exact run (fun s => swdDpFrame_kept _ _ _ s) (by simpa using ht)
    · exact run (swdApFrame_kept _ _ _) ht

/-! ### How a command ends -/

/-- A command is refused, finds a zero attempt count, or ends as `Ending` says. -/
theorem command_cases (i : Instr) (h : i.isCommand = true) (s : State) :
    ∃ p : State × Response, exec i s = .next (p.1.answered p.2) ∧
      (p = refuse s ∨ p = raiseFatal .badOption s ∨ Ending i s p) := by
  obtain ⟨body, hb, he⟩ := exec_command i h
  refine ⟨_, (hb s).trans (command_eq _ _), ?_⟩
  by_cases hf : s.fatal = none
  · by_cases h0 : 0 ∈ attemptCounts i
    · exact .inr (.inl (checkAdmission_badOption _ _ _ hf h0))
    · rw [checkAdmission_run _ _ _ hf h0]
      exact .inr (.inr (he s hf h0))
  · exact .inl (checkAdmission_refused _ _ _ hf)

/-- `set_dp` up to its response (R280). -/
theorem setDpBody_eq (k : Transport) (s : State) (hk : s.cfg.has k = true) :
    (setDpBody k s).1 =
      match k with
      | .jtag => { s with active := .jtag, dpJtag := ⟨none, none, s.dpJtag.orunDetect⟩ }
      | .swd => { s with active := .swd, dpSwd := { s.dpSwd with currentSelect := none } } := by
  cases k <;> simp only [setDpBody, hk, if_true] <;> rfl

/-- `reset_dp` up to its response (R281). -/
theorem resetDpBody_eq (s : State) :
    (resetDpBody s).1 =
      match s.active with
      | .jtag => { s with dpJtag := ⟨s.cfg.dpSelectReset, none, false⟩ }
      | .swd => { s with dpSwd := ⟨s.cfg.dpSelectReset, s.dpSwd.ir, false⟩ } := by
  cases hk : s.active <;>
    simp [resetDpBody, hk, State.setSelect, State.setOrun, State.setDp, State.dp, State.setIr]

end Sys2Proof.Machine
end

