-- ==== Sys2Proof/Laws/Alike.lean ====
section
/-! SUPPORT. The operations on two states that agree on everything but `last_ack`, the responses and the
transport's input: they agree afterwards. The operations read no captured bit (R41), but for the CSW seed
where `CSW_SEED_SOURCE` says so. -/

namespace Sys2Proof.Machine

/-- Agreement on all that decides what the engine does. -/
structure State.Alike (s t : State) : Prop where
  cfg : t.cfg = s.cfg
  pc : t.pc = s.pc
  active : t.active = s.active
  dpJtag : t.dpJtag = s.dpJtag
  dpSwd : t.dpSwd = s.dpSwd
  mem : t.mem = s.mem
  fatal : t.fatal = s.fatal
  trace : t.trace = s.trace
  port : t.port = s.port

section

variable {s t : State} (h : s.Alike t)

include h

theorem State.Alike.after (es : List TransportEvent) (k k' : Nat) : (s.after es k).Alike (t.after es k') :=
  ⟨h.cfg, h.pc, h.active, h.dpJtag, h.dpSwd, h.mem, h.fatal, by simp [State.after, h.trace], h.port⟩

theorem State.Alike.ack (x y : Option Word3) :
    State.Alike { s with lastAck := x } { t with lastAck := y } :=
  ⟨h.cfg, h.pc, h.active, h.dpJtag, h.dpSwd, h.mem, h.fatal, h.trace, h.port⟩

theorem State.Alike.withFatal (x : Option FatalCode) :
    State.Alike { s with fatal := x } { t with fatal := x } :=
  ⟨h.cfg, h.pc, h.active, h.dpJtag, h.dpSwd, h.mem, rfl, h.trace, h.port⟩

theorem State.Alike.cycle (n : Nat) : (s.cycle n).Alike (t.cycle n) := by
  simp only [State.cycle_eq_after]
  exact h.after _ _ _

theorem State.Alike.dp : t.dp s.active = s.dp s.active := by
  cases s.active <;> simp [State.dp, h.dpJtag, h.dpSwd]

theorem State.Alike.setSelect (k : Transport) (v : Option Word32) :
    (s.setSelect k v).Alike (t.setSelect k v) := by
  cases k <;> constructor <;> simp [State.setSelect, State.setDp, State.dp, h.cfg, h.pc, h.active,
    h.dpJtag, h.dpSwd, h.mem, h.fatal, h.trace, h.port]

theorem State.Alike.setOrun (k : Transport) (b : Bool) : (s.setOrun k b).Alike (t.setOrun k b) := by
  cases k <;> constructor <;> simp [State.setOrun, State.setDp, State.dp, h.cfg, h.pc, h.active,
    h.dpJtag, h.dpSwd, h.mem, h.fatal, h.trace, h.port]

theorem State.Alike.memAt (i : Nat) : t.memAt i = s.memAt i := by
  simp [State.memAt, h.mem]

theorem State.Alike.setMem (i : Nat) (m : MemApState) : (s.setMem i m).Alike (t.setMem i m) :=
  ⟨h.cfg, h.pc, h.active, h.dpJtag, h.dpSwd, by simp [State.setMem, h.mem], h.fatal, h.trace, h.port⟩

theorem State.Alike.setCsw (i : Nat) (v : Word32) : (s.setCsw i v).Alike (t.setCsw i v) := by
  simp only [State.setCsw, h.memAt]
  exact h.setMem _ _

theorem State.Alike.setTar (i : Nat) (v : Option Word32) : (s.setTar i v).Alike (t.setTar i v) := by
  simp only [State.setTar, h.memAt]
  exact h.setMem _ _

/-! ### Framing -/

theorem State.Alike.jtagSetIr (c : IrCode) : (jtagSetIr c s).Alike (jtagSetIr c t) := by
  simp only [jtagSetIr_eq, h.dpJtag]
  constructor <;> simp [State.after, h.cfg, h.pc, h.active, h.dpSwd, h.mem, h.fatal, h.trace, h.port]

theorem State.Alike.jtagAccess (ir : IrCode) (a : BitVec 2) (r : Bool) (d : Word32) (n : Nat)
    (cmp : Cmp 32) (hn : 0 < n) :
    (jtagAccess ir a r d n cmp s).1.Alike (jtagAccess ir a r d n cmp t).1 := by
  simp only [jtagAccess_eq _ _ _ _ _ _ _ hn, h.cfg, h.dpJtag]
  constructor <;> simp [State.after, h.cfg, h.pc, h.active, h.dpSwd, h.mem, h.fatal, h.trace, h.port]

theorem State.Alike.jtagIdcode (n : Nat) (cmp : Cmp 32) (hn : 0 < n) :
    (jtagIdcode n cmp s).1.Alike (jtagIdcode n cmp t).1 := by
  simp only [jtagIdcode_eq _ _ _ hn, h.cfg, h.dpJtag]
  constructor <;> simp [State.after, h.cfg, h.pc, h.active, h.dpSwd, h.mem, h.fatal, h.trace, h.port]

theorem State.Alike.swdAccess (p r : Bool) (a : BitVec 2) (d : Word32) (n : Nat) (cmp : Cmp 32)
    (hn : 0 < n) : (swdAccess p r a d n cmp s).1.Alike (swdAccess p r a d n cmp t).1 := by
  cases r
  · simp only [swdAccess_write _ _ _ _ _ _ hn, h.cfg]
    exact (h.after _ _ _).ack _ _
  · simp only [swdAccess_read _ _ _ _ _ _ hn, h.cfg]
    exact (h.after _ _ _).ack _ _

/-! ### The DP engine -/

theorem State.Alike.dpAccess (a : BitVec 2) (r : Bool) (d : Word32) (n : Nat) (cmp : Cmp 32)
    (hn : 0 < n) : (dpAccess a r d n cmp s).1.Alike (dpAccess a r d n cmp t).1 := by
  simp only [Machine.dpAccess, h.active]
  split
  · exact h.jtagAccess _ _ _ _ _ _ hn
  · exact h.swdAccess _ _ _ _ _ _ hn

theorem State.Alike.writeSelect (v : Word32) (n : Nat) (hn : 0 < n) :
    (writeSelect v n s).Alike (writeSelect v n t) := by
  simp only [Machine.writeSelect, h.active]
  exact (h.dpAccess _ _ _ _ _ hn).setSelect _ _

theorem State.Alike.selectDpBank (b : Word32) : (selectDpBank b s).Alike (selectDpBank b t) := by
  simp only [Machine.selectDpBank, h.dpSwd]
  split
  · exact h.writeSelect _ _ Nat.one_pos
  · exact h

theorem State.Alike.dpBankFor (r : DpName) : (dpBankFor r s).Alike (dpBankFor r t) := by
  cases r <;> first | exact h | exact h.selectDpBank _

theorem State.Alike.dpRead (r : DpName) (n : Nat) (cmp : Cmp 32) (hn : 0 < n) :
    (dpRead r n cmp s).1.Alike (dpRead r n cmp t).1 := by
  simp only [Machine.dpRead, h.active]
  split
  · cases r <;> first
      | exact h.jtagIdcode _ _ hn
      | exact h.jtagAccess _ _ _ _ _ _ hn
      | exact (h.jtagAccess _ _ _ _ _ _ Nat.one_pos).jtagAccess _ _ _ _ _ _ hn
  · exact (h.dpBankFor _).swdAccess _ _ _ _ _ _ hn

theorem State.Alike.dpWrite (r : DpName) (v : Word32) (n : Nat) (hn : 0 < n) :
    (dpWrite r v n s).Alike (dpWrite r v n t) := by
  cases r with
  | select => exact h.writeSelect _ _ hn
  | abort =>
    simp only [Machine.dpWrite, writeAbort, h.active]
    split
    · exact h.jtagAccess _ _ _ _ _ _ hn
    · exact h.swdAccess _ _ _ _ _ _ hn
  | ctrlStat =>
    simp only [Machine.dpWrite, writeCtrlStat, h.active]
    refine State.Alike.setOrun (State.Alike.dpAccess ?_ _ _ _ _ _ hn) _ _
    split
    · exact h
    · exact h.selectDpBank _
  | wcr => exact (h.selectDpBank _).swdAccess _ _ _ _ _ _ hn
  | _ => exact h

/-! ### The AP engine -/

theorem State.Alike.selectForAp (a : Word32) : (selectForAp a s).Alike (selectForAp a t) := by
  simp only [Machine.selectForAp, h.active, h.dp]
  split
  · exact h.writeSelect _ _ Nat.one_pos
  · split
    · exact h.writeSelect _ _ Nat.one_pos
    · exact h

theorem State.Alike.apAccess (a : Word32) (r : Bool) (d : Word32) (n : Nat) (cmp : Cmp 32)
    (hn : 0 < n) : (apAccess a r d n cmp s).1.Alike (apAccess a r d n cmp t).1 := by
  simp only [Machine.apAccess, h.active]
  split
  · exact h.jtagAccess _ _ _ _ _ _ hn
  · exact h.swdAccess _ _ _ _ _ _ hn

theorem State.Alike.readApCore (a : Word32) (n : Nat) (cmp : Cmp 32) (hn : 0 < n) :
    (readApCore a n cmp s).1.Alike (readApCore a n cmp t).1 := by
  simp only [Machine.readApCore, rdbuffRead, h.cfg]
  exact (((h.selectForAp _).apAccess _ _ _ _ _ Nat.one_pos).cycle _).dpAccess _ _ _ _ _ hn

theorem State.Alike.writeApCore (a v : Word32) (n : Nat) (hn : 0 < n) :
    (writeApCore a v n s).Alike (writeApCore a v n t) := by
  simp only [Machine.writeApCore, h.cfg, h.active]
  refine State.Alike.cycle ?_ _
  split
  · exact ((h.selectForAp _).apAccess _ _ _ _ _ hn).cycle _
  · exact (h.selectForAp _).apAccess _ _ _ _ _ hn

theorem State.Alike.rawCoherence (a : Word32) (v : Option Word32) :
    (rawCoherence a v s).Alike (rawCoherence a v t) := by
  simp only [Machine.rawCoherence, h.cfg]
  repeat' split
  all_goals first | exact h | exact h.setTar _ _ | exact h.setCsw _ _

/-! ### The MEM-AP engine, seeding from `csw_reset` -/

theorem State.Alike.setSize (hs : s.cfg.cswSeedSource = .resetValue) (i : Nat) (ap : ApConfig)
    (w : Width) : (setSize i ap w s).Alike (setSize i ap w t) := by
  have hseed : (seedCsw i ap s).Alike (seedCsw i ap t) := by
    simp only [seedCsw, h.memAt, h.cfg, hs]
    split
    · exact (h.readApCore _ _ _ Nat.one_pos).setCsw _ _
    · exact h
  simp only [Machine.setSize, hseed.memAt]
  split
  · exact (hseed.writeApCore _ _ _ Nat.one_pos).setCsw _ _
  · exact hseed

theorem State.Alike.setAddr (i : Nat) (ap : ApConfig) (a : Word32) (f : Bool) :
    (setAddr i ap a f s).Alike (setAddr i ap a f t) := by
  simp only [Machine.setAddr, h.memAt]
  split
  · exact (h.writeApCore _ _ _ Nat.one_pos).setTar _ _
  · exact h

theorem State.Alike.memWriteAt (hs : s.cfg.cswSeedSource = .resetValue) (a v : Word32) (w : Width)
    (n : Nat) (f : Bool) (i : Nat) (ap : ApConfig) (hn : 0 < n) :
    (memWriteAt a v w n f i ap s).1.Alike (memWriteAt a v w n f i ap t).1 := by
  have h' := ((h.setSize hs i ap w).setAddr i ap a f).writeApCore (drwAddr ap) (getWData w a v) n hn
  simp only [Machine.memWriteAt, afterDrwWrite, incrementAddr, h'.memAt]
  refine State.Alike.cycle ?_ _
  split
  · exact h'.setTar _ _
  · exact h'.setTar _ _

theorem State.Alike.memReadAt (hs : s.cfg.cswSeedSource = .resetValue) (a : Word32) (w : Width)
    (o : ReadOpts) (f : Bool) (i : Nat) (ap : ApConfig) (hn : 0 < o.attempts) :
    (memReadAt a w o f i ap s).1.Alike (memReadAt a w o f i ap t).1 := by
  have h' := ((h.setSize hs i ap w).setAddr i ap a f).readApCore (drwAddr ap) o.attempts
    (laneCmp w a o) hn
  simp only [Machine.memReadAt, incrementAddr, h'.memAt]
  exact (h'.setTar _ _).cycle _

/-! ### The wire frames -/

theorem State.Alike.dpWriteCoherence (a : BitVec 2) (v : Word32) :
    (dpWriteCoherence a v s).Alike (dpWriteCoherence a v t) := by
  simp only [Machine.dpWriteCoherence, h.active, h.dpSwd]
  repeat' split
  all_goals first | exact h | exact h.setSelect _ _ | exact h.setOrun _ _

theorem State.Alike.apFrameCoherence (a : BitVec 2) (v : Option Word32) :
    (apFrameCoherence a v s).Alike (apFrameCoherence a v t) := by
  simp only [Machine.apFrameCoherence, h.active, h.dp]
  split
  · exact h
  · exact h.rawCoherence _ _

end

end Sys2Proof.Machine
end

