-- ==== Sys2Proof/Laws/Decode.lean ====
section
/-! SUPPORT. What the command reader makes of what the command writer writes: words, numbers, operands
and options. -/

namespace Sys2Proof

/-- A written word that survives a line: not empty, without spaces and commas. -/
def cleanWord (t : Token) : Prop := t ≠ [] ∧ ∀ b ∈ t, b ≠ 32#8 ∧ b ≠ 44#8

/-! ### Spaces and commas -/

theorem dropSpaces_clean (t rest : Token) (h : cleanWord t) : dropSpaces (t ++ rest) = t ++ rest := by
  obtain ⟨hne, hc⟩ := h
  cases t with
  | nil => exact absurd rfl hne
  | cons b t =>
    have hb : (b == 32#8) = false := by simpa using (hc b (by simp)).1
    simp [dropSpaces, hb]

theorem cleanWord.reverse {t : Token} (h : cleanWord t) : cleanWord t.reverse :=
  ⟨by simpa using h.1, by simpa using h.2⟩

/-- A text that begins and ends with clean words is kept whole. -/
theorem trimSpaces_ends (t mid u : Token) (ht : cleanWord t) (hu : cleanWord u) :
    trimSpaces (t ++ mid ++ u) = t ++ mid ++ u := by
  unfold trimSpaces
  rw [List.append_assoc, dropSpaces_clean t _ ht]
  have : (t ++ (mid ++ u)).reverse = u.reverse ++ (mid.reverse ++ t.reverse) := by simp
  rw [this, dropSpaces_clean _ _ hu.reverse]
  simp

theorem trimSpaces_clean (t : Token) (h : cleanWord t) : trimSpaces t = t := by
  unfold trimSpaces
  rw [show t = t ++ [] by simp, dropSpaces_clean t [] h]
  have := dropSpaces_clean t.reverse [] h.reverse
  simp only [List.append_nil] at this ⊢
  rw [this, List.reverse_reverse]

theorem trimSpaces_space (t : Token) : trimSpaces (32#8 :: t) = trimSpaces t := by
  simp [trimSpaces, dropSpaces]

theorem splitCommas_clean (t : Token) (h : ∀ b ∈ t, b ≠ 44#8) : splitCommas t = [t] := by
  induction t with
  | nil => rfl
  | cons b t ih =>
    simp only [splitCommas, ih fun c hc => h c (by simp [hc])]
    rw [if_neg (h b (by simp))]

theorem splitCommas_ne_nil (t : Token) : splitCommas t ≠ [] := by
  cases t with
  | nil => simp [splitCommas]
  | cons b bs =>
    simp only [splitCommas]
    split
    · simp
    · split <;> simp

theorem splitCommas_cons (t rest : Token) (h : ∀ b ∈ t, b ≠ 44#8) :
    splitCommas (t ++ 44#8 :: rest) = t :: splitCommas rest := by
  induction t with
  | nil =>
    simp only [List.nil_append, splitCommas]
    cases hs : splitCommas rest with
    | nil => exact absurd hs (splitCommas_ne_nil rest)
    | cons w ws => simp
  | cons b t ih =>
    simp only [List.cons_append, splitCommas, ih fun c hc => h c (by simp [hc])]
    rw [if_neg (h b (by simp))]

theorem splitCommas_join (t : Token) (ts : List Token) (ht : cleanWord t) (h : ∀ u ∈ ts, cleanWord u) :
    (splitCommas (joinOperands (t :: ts))).map trimSpaces = t :: ts := by
  induction ts generalizing t with
  | nil =>
    simp only [joinOperands, splitCommas_clean t fun b hb => (ht.2 b hb).2]
    simp [trimSpaces_clean t ht]
  | cons u us ih =>
    have hsp : ∀ rest, (splitCommas (32#8 :: rest)).map trimSpaces = (splitCommas rest).map trimSpaces := by
      intro rest
      simp only [splitCommas]
      cases hs : splitCommas rest with
      | nil => exact absurd hs (splitCommas_ne_nil rest)
      | cons w ws => simp [trimSpaces_space]
    simp only [joinOperands]
    rw [splitCommas_cons t _ fun b hb => (ht.2 b hb).2]
    simp only [List.map_cons, trimSpaces_clean t ht]
    rw [hsp, ih u (h u (by simp)) fun x hx => h x (by simp [hx])]

/-- Joined clean words begin and end with clean words. -/
theorem joinOperands_trim (t : Token) (ts : List Token) (ht : cleanWord t)
    (h : ∀ u ∈ ts, cleanWord u) :
    trimSpaces (joinOperands (t :: ts)) = joinOperands (t :: ts) := by
  have ends : ∀ (ts : List Token) (t : Token), (∀ u ∈ ts, cleanWord u) → ts ≠ [] →
      ∃ mid u, cleanWord u ∧ joinOperands (t :: ts) = t ++ mid ++ u := by
    intro ts
    induction ts with
    | nil => intro _ _ hne; exact absurd rfl hne
    | cons u us ih =>
      intro t hc _
      cases us with
      | nil => exact ⟨[44#8, 32#8], u, hc u (by simp), by simp [joinOperands]⟩
      | cons v vs =>
        obtain ⟨mid, w, hw, he⟩ := ih u (fun x hx => hc x (by simp [hx])) (by simp)
        refine ⟨44#8 :: 32#8 :: (u ++ mid), w, hw, ?_⟩
        rw [joinOperands, he]
        · simp
        · simp
  cases ts with
  | nil => exact trimSpaces_clean t ht
  | cons u us =>
    obtain ⟨mid, w, hw, he⟩ := ends (u :: us) t h (by simp)
    rw [he]
    exact trimSpaces_ends t mid w ht hw

/-- A written line is read as its operation name and its operands. -/
theorem lineWords_line (m : Token) (ops : List Token) (hm : cleanWord m) (h : ∀ u ∈ ops, cleanWord u) :
    lineWords (m ++ (if ops = [] then [] else 32#8 :: joinOperands ops)) = (m, ops) := by
  have hw : ∀ rest, (m ++ 32#8 :: rest).takeWhile (· != 32#8) = m ∧
      (m ++ 32#8 :: rest).dropWhile (· != 32#8) = 32#8 :: rest := by
    intro rest
    have hall : ∀ b ∈ m, (b != 32#8) = true := fun b hb => by simpa using (hm.2 b hb).1
    rw [List.takeWhile_append_of_pos hall, List.dropWhile_append_of_pos hall]
    simp
  cases ops with
  | nil =>
    have hall : ∀ b ∈ m, (b != 32#8) = true := fun b hb => by simpa using (hm.2 b hb).1
    have h1 : m.takeWhile (· != 32#8) = m := by
      have := List.takeWhile_append_of_pos (l₂ := []) hall
      simpa using this
    have h2 : m.dropWhile (· != 32#8) = [] := by
      have := List.dropWhile_append_of_pos (l₂ := []) hall
      simpa using this
    simp only [lineWords, if_true, List.append_nil]
    rw [show dropSpaces m = m by simpa using dropSpaces_clean m [] hm, h1, h2]
    simp [trimSpaces, dropSpaces]
  | cons t ts =>
    have ht := h t (by simp)
    have hts : ∀ u ∈ ts, cleanWord u := fun u hu => h u (by simp [hu])
    have hne : joinOperands (t :: ts) ≠ [] := by
      cases ts with
      | nil => exact ht.1
      | cons u us => intro hc; simp [joinOperands] at hc
    simp only [lineWords, reduceCtorEq, if_false, dropSpaces_clean m _ hm, hw, trimSpaces_space,
      joinOperands_trim t ts ht hts, hne, splitCommas_join t ts ht hts]

/-! ### Numbers -/

theorem digitVal_digitChar (d : Nat) (h : d < 16) : digitVal (digitChar d) = some d := by
  interval_cases d <;> decide

theorem digitsVal_append (base acc d : Nat) (t : Token) (hd : d < 16) (hb : d < base) :
    digitsVal base acc (t ++ [digitChar d]) = (digitsVal base acc t).map fun n => n * base + d := by
  induction t generalizing acc with
  | nil => simp [digitsVal, digitVal_digitChar d hd, hb]
  | cons b t ih =>
    simp only [List.cons_append, digitsVal]
    cases digitVal b with
    | none => rfl
    | some v =>
      by_cases hv : v < base
      · simp [hv, ih]
      · simp [hv]

theorem digitsVal_decDigits (fuel n : Nat) (h : n < fuel) :
    digitsVal 10 0 (decDigits fuel n) = some n := by
  induction fuel generalizing n with
  | zero => omega
  | succ fuel ih =>
    unfold decDigits
    by_cases hn : n < 10
    · simp [hn, digitsVal, digitVal_digitChar n (by omega)]
    · rw [if_neg hn, digitsVal_append 10 0 (n % 10) _ (by omega) (by omega), ih (n / 10) (by omega)]
      simp only [Option.map_some, Option.some.injEq]
      omega

theorem digitsVal_hexDigits (k acc n : Nat) :
    digitsVal 16 acc (hexDigits k n) = some (acc * 16 ^ k + n % 16 ^ k) := by
  induction k generalizing acc with
  | zero => simp [hexDigits, digitsVal, Nat.mod_one]
  | succ k ih =>
    have hd : n / 16 ^ k % 16 < 16 := Nat.mod_lt _ (by omega)
    simp only [hexDigits, digitsVal, digitVal_digitChar _ hd, hd, if_true, ih]
    have h1 : n % 16 ^ (k + 1) = n % 16 ^ k + 16 ^ k * (n / 16 ^ k % 16) := by
      rw [Nat.pow_succ, Nat.mod_mul]
    rw [h1, Nat.pow_succ]
    ring_nf

theorem decDigits_ne_nil (fuel n : Nat) : decDigits (fuel + 1) n ≠ [] := by
  unfold decDigits
  split <;> simp

/-- The characters of a decimal number are decimal digits. -/
theorem decDigits_digit (fuel n : Nat) : ∀ b ∈ decDigits fuel n, isDigit b = true := by
  have hc : ∀ d, d < 10 → isDigit (digitChar d) = true := by
    intro d hd
    interval_cases d <;> decide
  induction fuel generalizing n with
  | zero => simp [decDigits]
  | succ fuel ih =>
    unfold decDigits
    split
    · rename_i hn
      simpa using hc n hn
    · intro b hb
      rcases List.mem_append.mp hb with hb | hb
      · exact ih _ b hb
      · rw [List.mem_singleton.mp hb]
        exact hc _ (by omega)

theorem decNat_digit (n : Nat) : ∀ b ∈ decNat n, isDigit b = true := decDigits_digit _ _

theorem cleanWord_of_digits (t : Token) (hne : t ≠ []) (h : ∀ b ∈ t, isDigit b = true) :
    cleanWord t := by
  refine ⟨hne, fun b hb => ?_⟩
  have hd := h b hb
  constructor <;> rintro rfl <;> revert hd <;> decide

theorem decNat_clean (n : Nat) : cleanWord (decNat n) :=
  cleanWord_of_digits _ (decDigits_ne_nil _ _) (decNat_digit n)

/-- A decimal number is read back. -/
theorem natOf_decNat (n : Nat) : natOf (decNat n) = .ok n := by
  have hval : digitsVal 10 0 (decNat n) = some n := digitsVal_decDigits (n + 1) n (by omega)
  have hne : decNat n ≠ [] := decDigits_ne_nil _ _
  have hx : (decNat n).take 2 ≠ [48#8, 120#8] := by
    intro hc
    have : (120#8 : Byte) ∈ decNat n := List.mem_of_mem_take (by rw [hc]; simp)
    exact absurd (decNat_digit n _ this) (by decide)
  have hb : (decNat n).take 2 ≠ [48#8, 98#8] := by
    intro hc
    have : (98#8 : Byte) ∈ decNat n := List.mem_of_mem_take (by rw [hc]; simp)
    exact absurd (decNat_digit n _ this) (by decide)
  rw [natOf, if_neg hx, if_neg hb]
  cases h : decNat n with
  | nil => exact absurd h hne
  | cons b t => simp [baseNumber, ← h, hval]

/-- A 32-bit number in hexadecimal is read back. -/
theorem word32Of_hexWord (v : Word32) : word32Of (hexWord v) = .ok v := by
  have hw : hexWord v = 48#8 :: 120#8 :: hexDigits 8 v.toNat := rfl
  have hval := digitsVal_hexDigits 8 0 v.toNat
  have hlt := v.isLt
  have hnum : natOf (hexWord v) = .ok v.toNat := by
    rw [hw, natOf, if_pos (by rfl)]
    simp only [List.drop_succ_cons, List.drop_zero]
    cases h : hexDigits 8 v.toNat with
    | nil => simp [hexDigits] at h
    | cons b t =>
      simp only [baseNumber, ← h, hval]
      congr 1
      omega
  simp [word32Of, hnum, hlt, bind, Except.bind]

theorem hexDigits_clean (k n : Nat) : ∀ b ∈ hexDigits k n, b ≠ 32#8 ∧ b ≠ 44#8 ∧ b ≠ 61#8 := by
  have hc : ∀ d, d < 16 → digitChar d ≠ 32#8 ∧ digitChar d ≠ 44#8 ∧ digitChar d ≠ 61#8 := by
    intro d hd
    interval_cases d <;> decide
  induction k with
  | zero => simp [hexDigits]
  | succ k ih =>
    intro b hb
    rcases List.mem_cons.mp hb with rfl | hb
    · exact hc _ (Nat.mod_lt _ (by omega))
    · exact ih b hb

theorem hexWord_clean (v : Word32) : cleanWord (hexWord v) := by
  refine ⟨by simp [hexWord, ascii], fun b hb => ?_⟩
  rcases List.mem_append.mp hb with hb | hb
  · have : b = 48#8 ∨ b = 120#8 := by simpa [ascii] using hb
    rcases this with rfl | rfl <;> decide
  · exact ⟨(hexDigits_clean _ _ b hb).1, (hexDigits_clean _ _ b hb).2.1⟩

/-! ### Operands -/

theorem wordChar_clean (b : Byte) (h : wordChar b = true) : b ≠ 32#8 ∧ b ≠ 44#8 := by
  constructor <;> rintro rfl <;> revert h <;> decide

theorem validName_clean (t : Token) (h : validName t = true) : cleanWord t := by
  cases t with
  | nil => simp [validName] at h
  | cons b t =>
    have hall : ∀ c ∈ b :: t, wordChar c = true := by
      simp only [validName, Bool.and_eq_true, List.all_eq_true] at h
      exact h.2
    exact ⟨by simp, fun c hc => wordChar_clean c (hall c hc)⟩

theorem validName_digit (b : Byte) (t : Token) (h : isDigit b = true) : validName (b :: t) = false := by
  simp [validName, h]

/-- A DP register reference is read back. -/
theorem dpRefOf_word (r : DpRef) (h : r.wf = true) : dpRefOf r.word = .ok r := by
  cases r with
  | name n => cases n <;> decide
  | addr d =>
    have hw : hexWord d = 48#8 :: 120#8 :: hexDigits 8 d.toNat := rfl
    have hnone : dpNameOf (hexWord d) = none := by
      rw [hw]
      have : ∀ p ∈ dpNameTable, p.1.head? ≠ some 48#8 := by decide
      rw [dpNameOf, List.lookup_eq_none_iff]
      intro p hp
      have := this p hp
      rw [bne_iff_ne]
      intro hc
      rw [← hc] at this
      exact this rfl
    simp only [dpRefOf, DpRef.word, hnone, word32Of_hexWord]
    rw [hw, validName_digit _ _ (by decide)]
    simp [isDigit, Except.map]
  | other s =>
    simp only [DpRef.wf, Bool.and_eq_true, Option.isNone_iff_eq_none] at h
    simp [dpRefOf, DpRef.word, h.1, h.2]

/-- An AP reference is read back. -/
theorem apRefOf_word (r : ApRef) (h : r.wf = true) : apRefOf r.word = .ok r := by
  cases r with
  | index i =>
    have hne : decNat i ≠ [] := decDigits_ne_nil _ _
    have hd := decNat_digit i
    cases hc : decNat i with
    | nil => exact absurd hc hne
    | cons b t =>
      have hb : isDigit b = true := hd b (by rw [hc]; simp)
      simp only [apRefOf, ApRef.word, hc, validName_digit b t hb]
      rw [← hc, natOf_decNat]
      simp [hc, hb, Except.map]
  | name s => simp [apRefOf, ApRef.word, show validName s = true from h]

/-- An address operand is read back. -/
theorem addrOf_word (a : Option Word32) : addrOf (addrWord a) = .ok a := by
  cases a with
  | none => decide
  | some v =>
    have hne : hexWord v ≠ ascii "none" := by
      intro h
      have := congrArg List.head? h
      simp [hexWord, ascii] at this
    simp [addrOf, addrWord, hne, word32Of_hexWord, Except.map]

theorem dpRef_clean (r : DpRef) (h : r.wf = true) : cleanWord r.word := by
  cases r with
  | name n => exact ⟨by cases n <;> decide, by cases n <;> decide⟩
  | addr d => exact hexWord_clean d
  | other s =>
    simp only [DpRef.wf, Bool.and_eq_true] at h
    exact validName_clean s h.1

theorem apRef_clean (r : ApRef) (h : r.wf = true) : cleanWord r.word := by
  cases r with
  | index i => exact decNat_clean i
  | name s => exact validName_clean s h

theorem addrWord_clean (a : Option Word32) : cleanWord (addrWord a) := by
  cases a with
  | none => exact ⟨by decide, by decide⟩
  | some v => exact hexWord_clean v

/-! ### Options -/

theorem optWord_clean (k : OptKey) (t : Token) (h : ∀ b ∈ t, b ≠ 32#8 ∧ b ≠ 44#8) :
    cleanWord (optWord k t) := by
  refine ⟨by simp [optWord], fun b hb => ?_⟩
  rcases List.mem_append.mp hb with hb | hb
  · have hk : ∀ b ∈ k.word, b ≠ 32#8 ∧ b ≠ 44#8 := by cases k <;> decide
    exact hk b hb
  · rcases List.mem_cons.mp hb with rfl | hb
    · decide
    · exact h b hb

/-- A written option is read as its key and value. -/
theorem readOption_optWord (allowed : List OptKey) (k : OptKey) (t : Token) (o : OptVals)
    (h : allowed.find? (fun j => decide (j.word = k.word)) = some k) (hk : k ≠ .force) :
    readOption allowed (optWord k t) o = setOption k t o := by
  have hw : ∀ b ∈ k.word, (b != 61#8) = true := by cases k <;> decide
  have h1 : (optWord k t).takeWhile (· != 61#8) = k.word := by
    rw [optWord, List.takeWhile_append_of_pos hw]
    simp
  have h2 : (optWord k t).drop k.word.length = 61#8 :: t := by simp [optWord]
  cases k <;> first | exact absurd rfl hk | simp only [readOption, h1, h2, h]

/-- The written flag `force` is read. -/
theorem readOption_force (allowed : List OptKey) (o : OptVals)
    (h : allowed.find? (fun j => decide (j.word = OptKey.force.word)) = some .force) :
    readOption allowed OptKey.force.word o =
      if o.force then .error .duplicateOption else .ok { o with force := true } := by
  have h1 : OptKey.force.word.takeWhile (· != 61#8) = OptKey.force.word := by decide
  have h2 : OptKey.force.word.drop OptKey.force.word.length = [] := by decide
  simp only [readOption, h1, h2, h]

/-! ### Frames -/

theorem bytesVal_valBytes (k n : Nat) : bytesVal (valBytes k n) = n % 256 ^ k := by
  induction k generalizing n with
  | zero => simp [valBytes, bytesVal, Nat.mod_one]
  | succ k ih =>
    simp only [valBytes, bytesVal, ih, BitVec.toNat_ofNat]
    rw [Nat.pow_succ 256, Nat.mul_comm (256 ^ k) 256, Nat.mod_mul]

theorem valBytes_length (k n : Nat) : (valBytes k n).length = k := by
  induction k generalizing n with
  | zero => rfl
  | succ k ih => simp [valBytes, ih]

theorem valBytes_bytesVal (bs : List Byte) : valBytes bs.length (bytesVal bs) = bs := by
  induction bs with
  | nil => rfl
  | cons b bs ih =>
    have hb := b.isLt
    simp only [List.length_cons, valBytes, bytesVal]
    congr 1
    · apply BitVec.eq_of_toNat_eq
      simp only [BitVec.toNat_ofNat]
      omega
    · rw [show (b.toNat + 256 * bytesVal bs) / 256 = bytesVal bs by omega, ih]

end Sys2Proof
end

