-- ==== Sys2Proof/Laws/PerInstr.lean ====
section
/-! SUPPORT. Per-instruction laws: one lemma per constructor of `Instr`. -/

namespace Sys2Proof.Laws.EncodeFormat

/-- The stored form of an instruction has the format of its row of the opcode table: text for a command,
and for a wire frame the bytes of its width (R81 to R85, R88). -/
def Statement (i : Instr) : Prop :=
  (i.isCommand = true → (encode i).format = .command ∧ (encode i).bytes ≠ []) ∧
  (i.isCommand = false →
    match (encode i).format with
    | .command => False
    | .jtagIr4 => (encode i).bytes.length = 1
    | .jtagDr35 => (encode i).bytes.length = 5
    | .jtagDr35Capture => (encode i).bytes.length = 5
    | .jtagDr32 => (encode i).bytes.length = 4
    | .swdRequest8 => (encode i).bytes.length = 1 ∨ (encode i).bytes.length = 5)

theorem of_line (i : Instr) (m : String) (ws : List Token) (h : i.isCommand = true)
    (e : encode i = encodeLine m ws) (hm : ascii m ≠ []) : Statement i := by
  refine ⟨fun _ => ?_, fun h' => ?_⟩
  · rw [e]
    exact ⟨rfl, by simp [encodeLine, hm]⟩
  · rw [h] at h'
    cases h'

theorem readDp (r : DpRef) (o : ReadOpts) : Statement (.readDp r o) := of_line _ _ _ rfl rfl (by decide)

theorem writeDp (r : DpRef) (v : Word32) (o : WriteOpts) : Statement (.writeDp r v o) :=
  of_line _ _ _ rfl rfl (by decide)

theorem writeReadDp (r : DpRef) (v : Word32) (o : WROpts) : Statement (.writeReadDp r v o) :=
  of_line _ _ _ rfl rfl (by decide)

theorem readAp (a : Option Word32) (o : ReadOpts) : Statement (.readAp a o) :=
  of_line _ _ _ rfl rfl (by decide)

theorem writeAp (a : Option Word32) (v : Word32) (o : WriteOpts) : Statement (.writeAp a v o) :=
  of_line _ _ _ rfl rfl (by decide)

theorem setApSelect (a : Option Word32) : Statement (.setApSelect a) := of_line _ _ _ rfl rfl (by decide)

theorem memSetSize (ap : ApRef) (w : Nat) : Statement (.memSetSize ap w) :=
  of_line _ _ _ rfl rfl (by decide)

theorem memSetAddr (ap : ApRef) (a : Option Word32) (force : Bool) : Statement (.memSetAddr ap a force) :=
  of_line _ _ _ rfl rfl (by decide)

theorem memRead (ap : ApRef) (a : Option Word32) (w : Nat) (o : ReadOpts) (force : Bool) :
    Statement (.memRead ap a w o force) :=
  of_line _ _ _ rfl rfl (by decide)

theorem memWrite (ap : ApRef) (a : Option Word32) (v : Word32) (w : Nat) (o : WriteOpts) (force : Bool) :
    Statement (.memWrite ap a v w o force) :=
  of_line _ _ _ rfl rfl (by decide)

theorem memWriteRead (ap : ApRef) (a : Option Word32) (v : Word32) (w : Nat) (o : WROpts) (force : Bool) :
    Statement (.memWriteRead ap a v w o force) :=
  of_line _ _ _ rfl rfl (by decide)

theorem setDp (k : Transport) : Statement (.setDp k) := of_line _ _ _ rfl rfl (by decide)

theorem resetDp : Statement .resetDp := of_line _ _ _ rfl rfl (by decide)

theorem irAbort : Statement .irAbort := ⟨nofun, fun _ => rfl⟩

theorem irDpacc : Statement .irDpacc := ⟨nofun, fun _ => rfl⟩

theorem irApacc : Statement .irApacc := ⟨nofun, fun _ => rfl⟩

theorem irIdcode : Statement .irIdcode := ⟨nofun, fun _ => rfl⟩

theorem irBypass : Statement .irBypass := ⟨nofun, fun _ => rfl⟩

theorem drAcc35 (data : Word32) (addr2 : BitVec 2) (rnw : Bool) : Statement (.drAcc35 data addr2 rnw) :=
  ⟨nofun, fun _ => valBytes_length _ _⟩

theorem drAcc35Capture (data : Word32) (ack : Word3) : Statement (.drAcc35Capture data ack) :=
  ⟨nofun, fun _ => valBytes_length _ _⟩

theorem drIdcode32 : Statement .drIdcode32 := ⟨nofun, fun _ => rfl⟩

theorem swdDpWA00 (v : Word32) : Statement (.swdDpWA00 v) := ⟨nofun, fun _ => .inr rfl⟩

theorem swdDpWA01 (v : Word32) : Statement (.swdDpWA01 v) := ⟨nofun, fun _ => .inr rfl⟩

theorem swdDpWA10 (v : Word32) : Statement (.swdDpWA10 v) := ⟨nofun, fun _ => .inr rfl⟩

theorem swdDpWA11 (v : Word32) : Statement (.swdDpWA11 v) := ⟨nofun, fun _ => .inr rfl⟩

theorem swdDpRA00 : Statement .swdDpRA00 := ⟨nofun, fun _ => .inl rfl⟩

theorem swdDpRA01 : Statement .swdDpRA01 := ⟨nofun, fun _ => .inl rfl⟩

theorem swdDpRA10 : Statement .swdDpRA10 := ⟨nofun, fun _ => .inl rfl⟩

theorem swdDpRA11 : Statement .swdDpRA11 := ⟨nofun, fun _ => .inl rfl⟩

theorem swdApWA00 (v : Word32) : Statement (.swdApWA00 v) := ⟨nofun, fun _ => .inr rfl⟩

theorem swdApWA01 (v : Word32) : Statement (.swdApWA01 v) := ⟨nofun, fun _ => .inr rfl⟩

theorem swdApWA10 (v : Word32) : Statement (.swdApWA10 v) := ⟨nofun, fun _ => .inr rfl⟩

theorem swdApWA11 (v : Word32) : Statement (.swdApWA11 v) := ⟨nofun, fun _ => .inr rfl⟩

theorem swdApRA00 : Statement .swdApRA00 := ⟨nofun, fun _ => .inl rfl⟩

theorem swdApRA01 : Statement .swdApRA01 := ⟨nofun, fun _ => .inl rfl⟩

theorem swdApRA10 : Statement .swdApRA10 := ⟨nofun, fun _ => .inl rfl⟩

theorem swdApRA11 : Statement .swdApRA11 := ⟨nofun, fun _ => .inl rfl⟩

end Sys2Proof.Laws.EncodeFormat
end

