-- ==== Sys2Proof/Machine/Remote.lean ====
section
/-! DEFINITION. The remote registers the engine addresses and does not hold (10_state.md R42, R43;
30_encoding.md R86, R93): their addresses, access directions and field layouts, so that values in
claims and tests can be named. No rule of the engine reads a field that R25, R27 and R87 do not name;
what the spec marks as general knowledge stays so (log entry 19). -/

namespace Sys2Proof.Machine

/-- A field of a remote register: bits `hi` down to `lo`. -/
structure RemoteField where
  name : String
  hi : Nat
  lo : Nat
  deriving DecidableEq, Repr

/-- The field's value in a register value, as an unsigned number (R10). -/
def RemoteField.get (f : RemoteField) (v : Word32) : Nat := v.toNat / 2 ^ f.lo % 2 ^ (f.hi + 1 - f.lo)

/-- The fields of the remote DP registers (R42). -/
def dpFields : DpName → List RemoteField
  | .idcode => [⟨"VERSION", 31, 28⟩, ⟨"PARTNO", 27, 12⟩, ⟨"DESIGNER", 11, 1⟩, ⟨"ONE", 0, 0⟩]
  | .abort => [⟨"DAPABORT", 0, 0⟩, ⟨"STKCMPCLR", 1, 1⟩, ⟨"STKERRCLR", 2, 2⟩, ⟨"WDERRCLR", 3, 3⟩,
      ⟨"ORUNERRCLR", 4, 4⟩, ⟨"RESERVED", 31, 5⟩]
  | .ctrlStat => [⟨"ORUNDETECT", 0, 0⟩, ⟨"STICKYORUN", 1, 1⟩, ⟨"TRNMODE", 3, 2⟩, ⟨"STICKYCMP", 4, 4⟩,
      ⟨"STICKYERR", 5, 5⟩, ⟨"READOK", 6, 6⟩, ⟨"WDATAERR", 7, 7⟩, ⟨"MASKLANE", 11, 8⟩,
      ⟨"TRNCNT", 23, 12⟩, ⟨"RESERVED", 25, 24⟩, ⟨"CDBGRSTREQ", 26, 26⟩, ⟨"CDBGRSTACK", 27, 27⟩,
      ⟨"CDBGPWRUPREQ", 28, 28⟩, ⟨"CDBGPWRUPACK", 29, 29⟩, ⟨"CSYSPWRUPREQ", 30, 30⟩,
      ⟨"CSYSPWRUPACK", 31, 31⟩]
  | .wcr => [⟨"PRESCALER", 2, 0⟩, ⟨"WIREMODE", 7, 6⟩, ⟨"TURNROUND", 9, 8⟩]
  | .select => [⟨"APSEL", 31, 24⟩, ⟨"RESERVED", 23, 8⟩, ⟨"APBANKSEL", 7, 4⟩, ⟨"DPBANKSEL", 3, 0⟩]
  | .resend => [⟨"DATA", 31, 0⟩]
  | .rdbuff => [⟨"DATA", 31, 0⟩]

/-- The DP address of a register (R42, R92). -/
def dpAddress (r : DpName) : Word32 := (dpAddr2 r).setWidth 32 <<< 2

/-- The remote MEM-AP registers (R43). -/
inductive MemApReg where
  | csw
  | tar
  | drw
  | bd0
  | bd1
  | bd2
  | bd3
  | cfg
  | base
  | idr
  deriving DecidableEq, Repr

/-- The offsets of R93. -/
def memApOffset : MemApReg → Word32
  | .csw => 0x00#32
  | .tar => 0x04#32
  | .drw => 0x0C#32
  | .bd0 => 0x10#32
  | .bd1 => 0x14#32
  | .bd2 => 0x18#32
  | .bd3 => 0x1C#32
  | .cfg => 0xF4#32
  | .base => 0xF8#32
  | .idr => 0xFC#32

/-- The AP address of a MEM-AP register: `base + offset` (R93). -/
def memApAddress (ap : ApConfig) (r : MemApReg) : Word32 := ap.base + memApOffset r

/-- Whether the target lets the register be written (R43). -/
def memApWritable : MemApReg → Bool
  | .csw | .tar | .drw | .bd0 | .bd1 | .bd2 | .bd3 => true
  | .cfg | .base | .idr => false

/-- The fields of CSW (R43, R94). -/
def cswFields : List RemoteField :=
  [⟨"SIZE", 2, 0⟩, ⟨"ADDRINC", 5, 4⟩, ⟨"DEVICEEN", 6, 6⟩, ⟨"TRINPROG", 7, 7⟩, ⟨"MODE", 11, 8⟩,
   ⟨"BUS", 31, 12⟩]

/-- The acknowledge values OK, WAIT and FAULT of R86, and every other (R96). -/
inductive AckKind where
  | ok
  | wait
  | fault
  | other
  deriving DecidableEq, Repr

/-- What an SWD acknowledge says (R86, R96). No rule of the engine asks. -/
def ackKind (a : Word3) : AckKind :=
  if a = 0b001#3 then .ok else if a = 0b010#3 then .wait else if a = 0b100#3 then .fault else .other

/-- The value of the target's power-up request and the answer a powered target gives (R333). -/
def powerUpRequest : Word32 := 0x50000000#32

/-- Whether a CTRL/STAT value has the upper nibble a powered-up target answers (R333). -/
def poweredUp (v : Word32) : Bool := v.extractLsb' 28 4 == 0xF#4

end Sys2Proof.Machine
end

