-- ==== Sys2Proof/Tests/Slice0.lean ====
section
/-! SUPPORT. Tests: the refusals of WellFormed, the decoding of every instruction from a word or line written
out from the spec, one or two steps of every instruction with the values of 95_test_vectors.md, and for each
obligation with hypotheses a state and operands that meet them. -/

set_option maxRecDepth 100000

namespace Sys2Proof.Tests

open Sys2Proof.Machine

/-! ### Helpers -/

/-- Captures of zeros, so that no free value is drawn. -/
def zeros : List Word35 := List.replicate 24 0#35

/-- A JTAG session with the IR and SELECT caches given. -/
def jt (ir : Word4) (sel : Word32) : State :=
  { State.reset with captures := zeros, dpJtag := ⟨some sel, some ir, false⟩ }

/-- A SWD session with the SELECT cache given. -/
def sw (sel : Word32) : State :=
  { State.reset with captures := zeros, active := .swd, dpSwd := ⟨some sel, none, false⟩ }

/-- The caches of AP0. -/
def withMem (csw : Word32) (tar : Option Word32) (s : State) : State := { s with mem := [⟨csw, tar⟩] }

/-- AP0 changed. -/
def withAp (f : ApConfig → ApConfig) (s : State) : State :=
  { s with cfg := { s.cfg with aps := [f standardAp] } }

/-- The next bits the transport returns. -/
def withBits (bits : List Word35) (s : State) : State := { s with captures := bits }

/-- A 35-bit scan without a compare. -/
def dr (tdi : Word35) : List TransportEvent := [.drScan35 tdi (noCmp 35)]

/-- The SWD events of a write packet of CFG: request, data, parity. -/
def wpkt (req : BitVec 8) (v : Word32) (par : BitVec 1) : List TransportEvent :=
  [.swdSend8 req, .swdTrn, .swdGet3 (noCmp 3), .swdTrn, .swdSend32 v, .swdSend1 par, .swdPark 10]

/-- The SWD events of a read packet of CFG. -/
def rpkt (req : BitVec 8) (cmp : Cmp 32) : List TransportEvent :=
  [.swdSend8 req, .swdTrn, .swdGet3 (noCmp 3), .swdGet32 cmp, .swdGet1 (noCmp 1), .swdTrn, .swdPark 10]

/-- The idle clocks of CFG after an access, and after a JTAG AP write. -/
def i7 : List TransportEvent := [.idle 7]

def i8 : List TransportEvent := [.idle 8]

def ir (v : Word4) : List TransportEvent := [.irScan v]

/-- One step of an item: its new events, its response, and a property of the state after it. -/
def stepsTo (s : State) (p : PortItem) (es : List (List TransportEvent)) (r : List Response)
    (post : State → Bool) : Bool :=
  match step { s with port := [p] } with
  | .next t => t.trace == s.trace ++ es.flatten && t.responses == r && t.pc == s.pc + r.length && post t
  | _ => false

/-- One step of a command line. -/
def runs (s : State) (line : String) (es : List (List TransportEvent)) (r : Response)
    (post : State → Bool) : Bool :=
  stepsTo s ⟨.command, ascii line⟩ es [r] post

/-- One step of a frame of one byte, or of a SWD write packet. -/
def sends (s : State) (f : Format) (bytes : List Byte) (es : List TransportEvent) (post : State → Bool) :
    Bool :=
  stepsTo s ⟨f, bytes⟩ [es] [] post

/-- The instruction a command line stands for. -/
def line (l : String) : Except DecodeError Instr := decode ⟨.command, ascii l⟩

/-! ### WellFormed refuses -/

theorem test_wf_empty_name : (Instr.readDp (.other []) {}).wf = false := by decide

theorem test_wf_name_of_a_register :
    (Instr.writeDp (.other (ascii "SELECT")) 0#32 {}).wf = false := by decide

theorem test_wf_symbolic_name_of_a_register :
    (Instr.writeReadDp (.other (ascii ":rdbuff")) 0#32 {}).wf = false := by decide

theorem test_wf_name_with_a_digit_first :
    (Instr.memSetSize (.name (ascii "0x1")) 32).wf = false := by decide

theorem test_wf_name_with_a_space :
    (Instr.memSetAddr (.name (ascii "AP 0")) none false).wf = false := by decide

theorem test_wf_name_with_a_comma :
    (Instr.memRead (.name (ascii "A,B")) none 8 {} false).wf = false := by decide

theorem test_wf_name_with_an_equals_sign :
    (Instr.memWrite (.name (ascii "a=1")) none 0#32 8 {} false).wf = false := by decide

theorem test_wf_name_with_a_control_character :
    (Instr.memWriteRead (.name [65#8, 10#8]) none 0#32 8 {} false).wf = false := by decide

theorem test_wf_name_beyond_ascii : (Instr.readDp (.other [200#8]) {}).wf = false := by decide

theorem test_wf_read_data :
    (Instr.drAcc35 1#32 0b11#2 true).wf = false ∧ (Instr.drAcc35 1#32 0b11#2 false).wf = true := by decide

theorem test_wf_admits_a_name : (Instr.readDp (.other (ascii "FOO")) {}).wf = true := by decide

/-! ### Every constructor decodes from its line (R99) or word (R81 to R85, R88) -/

theorem test_decode_readDp :
    line "read_dp CTRL_STAT, attempts=3, exp=0xF0000000, mask=0xF0000000" =
      .ok (.readDp (.name .ctrlStat) ⟨3, some 0xF0000000#32, 0xF0000000#32⟩) := by decide

theorem test_decode_writeDp :
    line "write_dp SELECT, 0x010000F0" =
      .ok (.writeDp (.name .select) 0x010000F0#32 {}) := by decide

theorem test_decode_writeReadDp :
    line "write_read_dp 0x4, 0x50000000, w_attempts=2, r_attempts=3" =
      .ok (.writeReadDp (.addr 4#32) 0x50000000#32 ⟨2, 3, none, 0xFFFFFFFF#32⟩) := by decide

theorem test_decode_readAp : line "read_ap 0xFC" = .ok (.readAp (some 0xFC#32) {}) := by decide

theorem test_decode_writeAp :
    line "write_ap 0x4, 0x1000, attempts=2" =
      .ok (.writeAp (some 4#32) 0x1000#32 ⟨2⟩) := by decide

theorem test_decode_setApSelect :
    line "set_ap_select 0x01000000" = .ok (.setApSelect (some 0x01000000#32)) := by decide

theorem test_decode_memSetSize :
    line "mem_set_size AP0, 16" = .ok (.memSetSize (.name (ascii "AP0")) 16) := by decide

theorem test_decode_memSetAddr :
    line "mem_set_addr 0, 0x1000, force" =
      .ok (.memSetAddr (.index 0) (some 0x1000#32) true) := by decide

theorem test_decode_memRead :
    line "mem_read AP0, none, 8" =
      .ok (.memRead (.name (ascii "AP0")) none 8 {} false) := by decide

theorem test_decode_memWrite :
    line "mem_write AP0, 0x1000, 1, 32" =
      .ok (.memWrite (.name (ascii "AP0")) (some 0x1000#32) 1#32 32 {} false) := by decide

theorem test_decode_memWriteRead :
    line "mem_write_read AP0, 0x20, 5, 8, exp=6, r_mask=0xFF" =
      .ok (.memWriteRead (.name (ascii "AP0")) (some 0x20#32) 5#32 8 ⟨1, 1, some 6#32, 0xFF#32⟩ false) := by decide

theorem test_decode_setDp : line "set_dp swd" = .ok (.setDp .swd) := by decide

theorem test_decode_resetDp : line "reset_dp" = .ok (.resetDp) := by decide

theorem test_decode_irAbort : decode ⟨.jtagIr4, [0x08#8]⟩ = .ok .irAbort := by decide

theorem test_decode_irDpacc : decode ⟨.jtagIr4, [0x0A#8]⟩ = .ok .irDpacc := by decide

theorem test_decode_irApacc : decode ⟨.jtagIr4, [0x0B#8]⟩ = .ok .irApacc := by decide

theorem test_decode_irIdcode : decode ⟨.jtagIr4, [0x0E#8]⟩ = .ok .irIdcode := by decide

theorem test_decode_irBypass : decode ⟨.jtagIr4, [0x0F#8]⟩ = .ok .irBypass := by decide

/-- `(0xF0 << 3) | (0b10 << 1) | 0 = 0x784`. -/
theorem test_decode_drAcc35 :
    decode ⟨.jtagDr35, [0x84#8, 0x07#8, 0x00#8, 0x00#8, 0x00#8]⟩ = .ok (.drAcc35 0xF0#32 0b10#2 false) := by decide

/-- `(0x24770011 << 3) | 0b010 = 0x123B8008A`. -/
theorem test_decode_drAcc35Capture :
    decode ⟨.jtagDr35Capture, [0x8A#8, 0x00#8, 0xB8#8, 0x23#8, 0x01#8]⟩ =
      .ok (.drAcc35Capture 0x24770011#32 0b010#3) := by decide

theorem test_decode_drIdcode32 : decode ⟨.jtagDr32, [0#8, 0#8, 0#8, 0#8]⟩ = .ok .drIdcode32 := by decide

theorem test_decode_swdDpWA00 :
    decode ⟨.swdRequest8, [0x81#8, 0x78#8, 0x56#8, 0x34#8, 0x12#8]⟩ = .ok (.swdDpWA00 0x12345678#32) := by decide

theorem test_decode_swdDpWA01 :
    decode ⟨.swdRequest8, [0xA9#8, 0x78#8, 0x56#8, 0x34#8, 0x12#8]⟩ = .ok (.swdDpWA01 0x12345678#32) := by decide

theorem test_decode_swdDpWA10 :
    decode ⟨.swdRequest8, [0xB1#8, 0x78#8, 0x56#8, 0x34#8, 0x12#8]⟩ = .ok (.swdDpWA10 0x12345678#32) := by decide

theorem test_decode_swdDpWA11 :
    decode ⟨.swdRequest8, [0x99#8, 0x78#8, 0x56#8, 0x34#8, 0x12#8]⟩ = .ok (.swdDpWA11 0x12345678#32) := by decide

theorem test_decode_swdDpRA00 : decode ⟨.swdRequest8, [0xA5#8]⟩ = .ok .swdDpRA00 := by decide

theorem test_decode_swdDpRA01 : decode ⟨.swdRequest8, [0x8D#8]⟩ = .ok .swdDpRA01 := by decide

theorem test_decode_swdDpRA10 : decode ⟨.swdRequest8, [0x95#8]⟩ = .ok .swdDpRA10 := by decide

theorem test_decode_swdDpRA11 : decode ⟨.swdRequest8, [0xBD#8]⟩ = .ok .swdDpRA11 := by decide

theorem test_decode_swdApWA00 :
    decode ⟨.swdRequest8, [0xA3#8, 0x78#8, 0x56#8, 0x34#8, 0x12#8]⟩ = .ok (.swdApWA00 0x12345678#32) := by decide

theorem test_decode_swdApWA01 :
    decode ⟨.swdRequest8, [0x8B#8, 0x78#8, 0x56#8, 0x34#8, 0x12#8]⟩ = .ok (.swdApWA01 0x12345678#32) := by decide

theorem test_decode_swdApWA10 :
    decode ⟨.swdRequest8, [0x93#8, 0x78#8, 0x56#8, 0x34#8, 0x12#8]⟩ = .ok (.swdApWA10 0x12345678#32) := by decide

theorem test_decode_swdApWA11 :
    decode ⟨.swdRequest8, [0xBB#8, 0x78#8, 0x56#8, 0x34#8, 0x12#8]⟩ = .ok (.swdApWA11 0x12345678#32) := by decide

theorem test_decode_swdApRA00 : decode ⟨.swdRequest8, [0x87#8]⟩ = .ok .swdApRA00 := by decide

theorem test_decode_swdApRA01 : decode ⟨.swdRequest8, [0xAF#8]⟩ = .ok .swdApRA01 := by decide

theorem test_decode_swdApRA10 : decode ⟨.swdRequest8, [0xB7#8]⟩ = .ok .swdApRA10 := by decide

theorem test_decode_swdApRA11 : decode ⟨.swdRequest8, [0x9F#8]⟩ = .ok .swdApRA11 := by decide

/-! ### The decoder rejects by name -/

theorem test_reject_mnemonic : line "read_mem 0" = .error .unknownMnemonic := by decide

theorem test_reject_missing : line "write_dp SELECT" = .error .missingOperand := by decide

theorem test_reject_extra : line "set_dp jtag, swd" = .error .extraOperand := by decide

theorem test_reject_number : line "write_dp SELECT, 0xZ" = .error .badNumber := by decide

theorem test_reject_wide : line "write_dp SELECT, 0x100000000" = .error .numberTooWide := by decide

theorem test_reject_option : line "read_dp IDCODE, w_attempts=2" = .error .unknownOption := by decide

theorem test_reject_duplicate :
    line "read_dp IDCODE, attempts=1, attempts=2" = .error .duplicateOption := by decide

theorem test_reject_transport : line "set_dp usb" = .error .badTransport := by decide

theorem test_reject_ir_code : decode ⟨.jtagIr4, [0x09#8]⟩ = .error .badIrCode := by decide

theorem test_reject_reserved_bits :
    decode ⟨.jtagDr35, [0#8, 0#8, 0#8, 0#8, 0x08#8]⟩ = .error .reservedBits := by decide

theorem test_reject_idcode_shift_in :
    decode ⟨.jtagDr32, [1#8, 0#8, 0#8, 0#8]⟩ = .error .reservedBits := by decide

/-- R82: the data of a read is 0. -/
theorem test_reject_read_data :
    decode ⟨.jtagDr35, [0x87#8, 0x07#8, 0x00#8, 0x00#8, 0x00#8]⟩ = .error .reservedBits ∧
      decode ⟨.jtagDr35, [0x07#8, 0x00#8, 0x00#8, 0x00#8, 0x00#8]⟩ = .ok (.drAcc35 0#32 0b11#2 true) := by decide

theorem test_reject_request : decode ⟨.swdRequest8, [0x80#8]⟩ = .error .badRequest := by decide

theorem test_reject_length : decode ⟨.swdRequest8, [0xB1#8, 0#8]⟩ = .error .badLength := by decide

/-! ### One step of each command (95_test_vectors.md) -/

/-- V10: the second scan returns the data of the first. -/
theorem test_readDp_ctrlStat_jtag :
    runs (withBits [0x0#35, 0x780000002#35] (jt 0xA#4 0#32)) "read_dp CTRL_STAT"
      [dr 0x3#35, i7, dr 0x7#35, i7]
      (okRead 0xF0000000#32 true) (fun t => t.dpJtag.ir == some 0xA#4 && t.lastAck == none) = true := by decide

/-- V12: DP bank 1 first. -/
theorem test_readDp_wcr_swd :
    runs (sw 0#32) "read_dp WCR"
      [wpkt 0xB1#8 1#32 1#1, rpkt 0x8D#8 (noCmp 32)]
      (okRead 0x0#32 true) (fun t => t.dpSwd.currentSelect == some 1#32 && t.lastAck == some 0#3) = true := by decide

/-- V11: bit 0 is latched. -/
theorem test_writeDp_ctrlStat_jtag :
    runs (jt 0xA#4 0#32) "write_dp CTRL_STAT, 0x50000001"
      [dr 0x28000000A#35, i7]
      okDone (fun t => t.dpJtag.orunDetect && !t.dpSwd.orunDetect) = true := by decide

/-- V16: a raw address; ABORT has its own IR code. -/
theorem test_writeDp_abort_jtag :
    runs (jt 0xA#4 0#32) "write_dp 0x0, 0x1E"
      [ir 0x8#4, dr 0xF0#35, i7]
      okDone (fun t => t.dpJtag.ir == some 8#4) = true := by decide

/-- V17: the written value is the expected one. -/
theorem test_writeReadDp_ctrlStat_jtag :
    runs (jt 0xA#4 0#32) "write_read_dp CTRL_STAT, 0x50000000"
      [dr 0x280000002#35, i7, dr 0x3#35, i7, [.drScan35 7#35 ⟨0x280000000#35, 0x7FFFFFFF8#35⟩], i7]
      (okRead 0x0#32 false) (fun t => t.pc == 1) = true := by decide

/-- V17: the write is skipped, the read runs. -/
theorem test_writeReadDp_rdbuff_jtag :
    runs (jt 0xA#4 0#32) "write_read_dp RDBUFF, 5"
      [[.drScan35 7#35 ⟨0x28#35, 0x7FFFFFFF8#35⟩], i7]
      ⟨.skip .writeToReadOnly, some 0#32, false⟩ (fun t => t.pc == 1) = true := by decide

/-- V8: the data comes from RDBUFF, not from the AP scan. -/
theorem test_readAp_jtag :
    runs (withBits [0x0#35, 0x6F56DF77A#35, 0x123B8008A#35] { State.reset with trace := [] }) "read_ap 0xFC"
      [ir 0xA#4, dr 0x784#35, i7, ir 0xB#4, dr 0x7#35, i7, ir 0xA#4, dr 0x7#35, i7]
      (okRead 0x24770011#32 true) (fun t => t.dpJtag.currentSelect == some 0xF0#32) = true := by decide

/-- P2. -/
theorem test_readAp_swd :
    runs (withBits [0x1#35, 0xDEADBEEF#35, 0x0#35, 0x1#35, 0x24770011#35, 0x0#35] (sw 0xF0#32)) "read_ap 0xFC"
      [rpkt 0x9F#8 (noCmp 32), rpkt 0xBD#8 (noCmp 32)]
      (okRead 0x24770011#32 true) (fun t => t.lastAck == some 1#3) = true := by decide

/-- V22, with its clock count. -/
theorem test_writeAp_jtag :
    runs (jt 0xB#4 0#32) "write_ap 0x01000010, 0x12345678"
      [ir 0xA#4, dr 0x8000084#35, i7, ir 0xB#4, dr 0x91A2B3C0#35, i7, i8]
      okDone (fun t => totalClocks t.cfg t.trace == 100) = true := by decide

/-- V24: a raw CSW write is followed by the CSW cache (R169). -/
theorem test_writeAp_swd :
    runs (withMem 0#32 none (sw 0#32)) "write_ap 0x0, 0x23000052"
      [wpkt 0xA3#8 0x23000052#32 0#1]
      okDone (fun t => t.memAt 0 == ⟨0x23000052#32, none⟩) = true := by decide

/-- V1. -/
theorem test_setApSelect_other_bank :
    runs (jt 0xA#4 0xF0#32) "set_ap_select 0x010000F0"
      [dr 0x8000784#35, i7]
      okDone (fun t => t.dpJtag.currentSelect == some 0x010000F0#32) = true := by decide

/-- V1: only APSEL and the bank count. -/
theorem test_setApSelect_same_bank :
    runs (jt 0xA#4 0xF0#32) "set_ap_select 0x000000F4"
      []
      okDone (fun t => t.dpJtag.currentSelect == some 0xF0#32) = true := by decide

/-- V57. -/
theorem test_memSetSize :
    runs (withMem 0x23000052#32 none (sw 0#32)) "mem_set_size AP0, 8"
      [wpkt 0xA3#8 0x23000050#32 1#1]
      okDone (fun t => t.memAt 0 == ⟨0x23000050#32, none⟩) = true := by decide

/-- P3: the dummy CSW read seeds the cache with `csw_reset`. -/
theorem test_memSetSize_seeds :
    runs (withMem 0#32 none (jt 0xB#4 0#32)) "mem_set_size AP0, 32"
      [dr 0x1#35, i7, ir 0xA#4, dr 0x7#35, i7]
      okDone (fun t => t.memAt 0 == ⟨0x23000052#32, none⟩) = true := by decide

/-- V56: the cache holds the address. -/
theorem test_memSetAddr_hit :
    runs (withMem 0x23000052#32 (some 0x1000#32) (jt 0xB#4 0#32)) "mem_set_addr AP0, 0x1000"
      []
      okDone (fun t => t.pc == 1) = true := by decide

/-- V56: `force` writes TAR all the same. -/
theorem test_memSetAddr_forced :
    runs (withMem 0x23000052#32 (some 0x1000#32) (jt 0xB#4 0#32)) "mem_set_addr AP0, 0x1000, force"
      [dr 0x8002#35, i7, i8]
      okDone (fun t => t.memAt 0 == ⟨0x23000052#32, some 0x1000#32⟩) = true := by decide

/-- V58: lane, compare and address increment. -/
theorem test_memRead_lane :
    runs (withBits [0x0#35, 0x5F77891A2#35] (withMem 0x23000051#32 (some 0x1002#32) (jt 0xB#4 0#32))) "mem_read AP0, 0x1002, 16, exp=0xBEEF"
      [dr 0x7#35, i7, ir 0xA#4, [.drScan35 7#35 ⟨0x5F7780000#35, 0x7FFF80000#35⟩], i7]
      (okRead 0xBEEF#32 true) (fun t => t.memAt 0 == ⟨0x23000051#32, some 0x1004#32⟩) = true := by decide

/-- P4: the lane of the second byte. -/
theorem test_memRead_swd :
    runs (withMem 0x23000050#32 (some 0x20000001#32) (sw 0#32)) "mem_read AP0, 0x20000001, 8, exp=0xAB"
      [rpkt 0x9F#8 (noCmp 32), rpkt 0xBD#8 ⟨0xAB00#32, 0xFF00#32⟩]
      (okRead 0x0#32 false) (fun t => t.memAt 0 == ⟨0x23000050#32, some 0x20000002#32⟩) = true := by decide

/-- V5: the increment leaves the 1KB block, so TAR is forgotten. -/
theorem test_memWrite_block_end :
    runs (withMem 0x23000052#32 (some 0x3FC#32) (jt 0xB#4 0#32)) "mem_write AP0, 0x3FC, 0x11111111, 32"
      [dr 0x8888888E#35, i7, i8]
      okDone (fun t => t.memAt 0 == ⟨0x23000052#32, none⟩) = true := by decide

/-- V61: wait states before latency. -/
theorem test_memWrite_waits :
    runs (withAp (fun a => { a with base := 0x01000000#32, apmemAccessWait := 2, latency := 4 })
      (withMem 0x23000052#32 (some 0x10#32) (jt 0xB#4 0x01000000#32))) "mem_write AP0, 0x10, 5, 32"
      [dr 0x2E#35, i7, i8, [.idle 2], [.idle 4]]
      okDone (fun t => t.memAt 0 == ⟨0x23000052#32, some 0x14#32⟩) = true := by decide

/-- V60: the increment makes the read write TAR again. -/
theorem test_memWriteRead_swd :
    runs (withMem 0x23000050#32 none (sw 0#32)) "mem_write_read AP0, 0x20000001, 0xAB, 8"
      [wpkt 0x8B#8 0x20000001#32 0#1, wpkt 0xBB#8 0xAB00#32 1#1, wpkt 0x8B#8 0x20000001#32 0#1, rpkt 0x9F#8 (noCmp 32), rpkt 0xBD#8 ⟨0xAB00#32, 0xFF00#32⟩]
      (okRead 0x0#32 false) (fun t => t.memAt 0 == ⟨0x23000050#32, some 0x20000002#32⟩) = true := by decide

/-- V80. -/
theorem test_setDp_swd :
    runs (jt 0xA#4 0xF0#32) "set_dp swd"
      []
      okDone (fun t => t.active == .swd && t.dpSwd.currentSelect == none && t.dpJtag.ir == some 0xA#4) = true := by decide

/-- V70. -/
theorem test_setDp_absent :
    runs ({ State.reset with cfg := { Params.standard with hasSwdDp := false } } : State) "set_dp swd"
      []
      (failed (.fatal .protocolMisuse)) (fun t => t.fatal == some .protocolMisuse && t.active == .jtag) = true := by decide

/-- V81. -/
theorem test_resetDp :
    runs ({ jt 0xB#4 0xF0#32 with dpJtag := ⟨some 0xF0#32, some 0xB#4, true⟩ } : State) "reset_dp"
      []
      okDone (fun t => t.dpJtag == ⟨none, none, false⟩) = true := by decide

/-- V70: no event, the sticky state. -/
theorem test_fatal_missing_context :
    runs State.reset "read_ap"
      []
      (failed (.fatal .missingContext)) (fun t => t.fatal == some .missingContext) = true := by decide

/-- V70: refused until reset. -/
theorem test_fatal_refuses :
    runs ({ State.reset with fatal := some .badOption } : State) "read_dp IDCODE"
      []
      (failed .refused) (fun t => t.fatal == some .badOption) = true := by decide

/-! ### One step of each wire frame (R81 to R85, R88) -/

theorem test_irAbort :
    sends (jt 0xA#4 0#32) .jtagIr4 [0x08#8]
      (ir 0x8#4) (fun t => t.dpJtag.ir == some 0x8#4) = true := by decide

theorem test_irDpacc :
    sends (jt 0xB#4 0#32) .jtagIr4 [0x0A#8]
      (ir 0xA#4) (fun t => t.dpJtag.ir == some 0xA#4) = true := by decide

theorem test_irApacc :
    sends (jt 0xA#4 0#32) .jtagIr4 [0x0B#8]
      (ir 0xB#4) (fun t => t.dpJtag.ir == some 0xB#4) = true := by decide

theorem test_irIdcode :
    sends (jt 0xA#4 0#32) .jtagIr4 [0x0E#8]
      (ir 0xE#4) (fun t => t.dpJtag.ir == some 0xE#4) = true := by decide

theorem test_irBypass :
    sends (jt 0xA#4 0#32) .jtagIr4 [0x0F#8]
      (ir 0xF#4) (fun t => t.dpJtag.ir == some 0xF#4) = true := by decide

/-- R181: the IR is not scanned again. -/
theorem test_irDpacc_cached :
    sends (jt 0xA#4 0#32) .jtagIr4 [0x0A#8]
      [] (fun t => t.dpJtag.ir == some 0xA#4) = true := by decide

/-- R98: the DR has 32 bits under IDCODE, so DPACC is set first. -/
theorem test_drAcc35_select :
    sends (jt 0xE#4 0#32) .jtagDr35 [0x84#8, 0x07#8, 0x00#8, 0x00#8, 0x00#8]
      (ir 0xA#4 ++ dr 0x784#35 ++ i7) (fun t => t.dpJtag == ⟨some 0xF0#32, some 0xA#4, false⟩) = true := by decide

/-- R169 under APACC: `(0x23000052 << 3) | 0`. -/
theorem test_drAcc35_csw :
    sends (withMem 0#32 none (jt 0xB#4 0#32)) .jtagDr35 [0x90#8, 0x02#8, 0x00#8, 0x18#8, 0x01#8]
      (dr 0x118000290#35 ++ i7) (fun t => t.memAt 0 == ⟨0x23000052#32, none⟩) = true := by decide

theorem test_drAcc35Capture :
    sends (withBits [] (jt 0xB#4 0#32)) .jtagDr35Capture [0x8A#8, 0x00#8, 0xB8#8, 0x23#8, 0x01#8]
      [] (fun t => t.captures == [0x123B8008A#35]) = true := by decide

/-- R188: under IR IDCODE. -/
theorem test_drIdcode32 :
    sends (jt 0xA#4 0#32) .jtagDr32 [0#8, 0#8, 0#8, 0#8]
      (ir 0xE#4 ++ [.drScan32 0#32 (noCmp 32), .idle 7]) (fun t => t.captures.length == 23 && t.dpJtag.ir == some 0xE#4) = true := by decide

theorem test_swdDpWA00 :
    sends (sw 0#32) .swdRequest8 [0x81#8, 0x78#8, 0x56#8, 0x34#8, 0x12#8]
      (wpkt 0x81#8 0x12345678#32 1#1) (fun t => t.lastAck == some 0#3) = true := by decide

theorem test_swdDpWA01 :
    sends (sw 0#32) .swdRequest8 [0xA9#8, 0x78#8, 0x56#8, 0x34#8, 0x12#8]
      (wpkt 0xA9#8 0x12345678#32 1#1) (fun t => !t.dpSwd.orunDetect) = true := by decide

theorem test_swdDpWA10 :
    sends (sw 0#32) .swdRequest8 [0xB1#8, 0x78#8, 0x56#8, 0x34#8, 0x12#8]
      (wpkt 0xB1#8 0x12345678#32 1#1) (fun t => t.dpSwd.currentSelect == some 0x12345678#32) = true := by decide

theorem test_swdDpWA11 :
    sends (sw 0#32) .swdRequest8 [0x99#8, 0x78#8, 0x56#8, 0x34#8, 0x12#8]
      (wpkt 0x99#8 0x12345678#32 1#1) (fun t => t.lastAck == some 0#3) = true := by decide

theorem test_swdDpRA00 :
    sends (sw 0#32) .swdRequest8 [0xA5#8]
      (rpkt 0xA5#8 (noCmp 32)) (fun t => t.lastAck == some 0#3) = true := by decide

theorem test_swdDpRA01 :
    sends (sw 0#32) .swdRequest8 [0x8D#8]
      (rpkt 0x8D#8 (noCmp 32)) (fun t => t.lastAck == some 0#3) = true := by decide

theorem test_swdDpRA10 :
    sends (sw 0#32) .swdRequest8 [0x95#8]
      (rpkt 0x95#8 (noCmp 32)) (fun t => t.lastAck == some 0#3) = true := by decide

theorem test_swdDpRA11 :
    sends (sw 0#32) .swdRequest8 [0xBD#8]
      (rpkt 0xBD#8 (noCmp 32)) (fun t => t.lastAck == some 0#3) = true := by decide

theorem test_swdApWA00 :
    sends (sw 0#32) .swdRequest8 [0xA3#8, 0x78#8, 0x56#8, 0x34#8, 0x12#8]
      (wpkt 0xA3#8 0x12345678#32 1#1) (fun t => t.memAt 0 == ⟨0x12345678#32, none⟩) = true := by decide

theorem test_swdApWA01 :
    sends (sw 0#32) .swdRequest8 [0x8B#8, 0x78#8, 0x56#8, 0x34#8, 0x12#8]
      (wpkt 0x8B#8 0x12345678#32 1#1) (fun t => t.memAt 0 == ⟨0#32, some 0x12345678#32⟩) = true := by decide

theorem test_swdApWA10 :
    sends (sw 0#32) .swdRequest8 [0x93#8, 0x78#8, 0x56#8, 0x34#8, 0x12#8]
      (wpkt 0x93#8 0x12345678#32 1#1) (fun t => t.lastAck == some 0#3) = true := by decide

theorem test_swdApWA11 :
    sends (sw 0#32) .swdRequest8 [0xBB#8, 0x78#8, 0x56#8, 0x34#8, 0x12#8]
      (wpkt 0xBB#8 0x12345678#32 1#1) (fun t => t.lastAck == some 0#3) = true := by decide

theorem test_swdApRA00 :
    sends (sw 0#32) .swdRequest8 [0x87#8]
      (rpkt 0x87#8 (noCmp 32)) (fun t => t.lastAck == some 0#3) = true := by decide

theorem test_swdApRA01 :
    sends (sw 0#32) .swdRequest8 [0xAF#8]
      (rpkt 0xAF#8 (noCmp 32)) (fun t => t.lastAck == some 0#3) = true := by decide

theorem test_swdApRA10 :
    sends (sw 0#32) .swdRequest8 [0xB7#8]
      (rpkt 0xB7#8 (noCmp 32)) (fun t => t.lastAck == some 0#3) = true := by decide

theorem test_swdApRA11 :
    sends (sw 0#32) .swdRequest8 [0x9F#8]
      (rpkt 0x9F#8 (noCmp 32)) (fun t => t.lastAck == some 0#3) = true := by decide

/-- A frame given as a number is the next step's. -/
theorem test_withFetchWord :
    step (State.reset.withFetchWord 8 0xB1) =
      exec (.swdDpWA10 0#32) { State.reset with active := .swd } := rfl

/-! ### Values written out in the spec -/

/-- V32. -/
theorem test_widened_compare :
    widenCmp { Params.standard with readAckWidth := .three } ⟨0x24770011#32, 0xFFFFFFFF#32⟩ =
      ⟨0x123B8008C#35, 0x7FFFFFFFF#35⟩ := by decide

/-- R333, with the bits of R42. -/
theorem test_power_up_request :
    powerUpRequest.toNat = 2 ^ 28 + 2 ^ 30 ∧ poweredUp 0xF0000000#32 = true := by decide

/-- R93 and R43. -/
theorem test_idr_address : memApAddress standardAp .idr = 0xFC#32 ∧ memApWritable .idr = false := by decide

/-! ### Witnesses: states and operands that meet the hypotheses of the obligations -/

/-- A configuration with a MemAP at 0x01000000 that waits and a generic AP at 0x02000000. -/
def twoAps : Params :=
  { Params.standard with
    aps := [{ standardAp with base := 0x01000000#32, apregAccessWait := 3, apmemAccessWait := 5 },
      { standardAp with name := ascii "G", cls := .generic, base := 0x02000000#32 }] }

/-- The same AP0, its CSW cache seeded with the ADDRINC value given (bits 5..4) and SIZE 32. -/
def inc (csw : Word32) (tar : Option Word32) : State := withMem csw tar (jt 0xB#4 0#32)

theorem witness_ResetValues :
    Params.standard.has .jtag = true ∧ Params.standard.aps[0]? = some standardAp ∧ standardAp.cls = .memAp := by decide

theorem witness_StepRunsDecoded :
    State.reset.port = [] ∧ decode ⟨.jtagIr4, [0x0A#8]⟩ = .ok .irDpacc ∧
      decode ⟨.jtagIr4, []⟩ = .error .badLength := by decide

theorem witness_DecodeOfEncode :
    (Instr.memRead (.name (ascii "AP0")) none 0 ⟨0, some 0#32, 0#32⟩ true).wf = true := by decide

theorem witness_EncodeOfDecodedFrame :
    decode ⟨.swdRequest8, [0xBB#8, 1#8, 0#8, 0#8, 0#8]⟩ = .ok (.swdApWA11 1#32) ∧
      (Instr.swdApWA11 1#32).isCommand = false := by decide

theorem witness_DecodedIsWellFormed :
    line "read_dp FOO" = .ok (.readDp (.other (ascii "FOO")) {}) := by decide

theorem witness_WidenedCompare :
    Params.standard.readAckWidth = .zero ∧
      ({ Params.standard with readAckWidth := .three } : Params).readAckWidth = .three ∧
      (⟨0#32, 1#32⟩ : Cmp 32) ≠ noCmp 32 := by decide

theorem witness_RegisterResolution :
    (0xD#32).extractLsb' 0 2 ≠ 0#2 ∧ 0xC < (0x10#32).toNat ∧ ¬0xC < (0xC#32).toNat := by decide

theorem witness_OwnerIsFirstWindow :
    findAp twoAps (.index 1) = findAp twoAps (.name (ascii "G")) ∧ (findAp twoAps (.index 1)).isSome = true ∧
      memApOf twoAps (.index 1) = none ∧ (memApOf twoAps (.name (ascii "AP0"))).map Prod.fst = some 0 ∧
      findAp twoAps (.index 2) = none := by decide

theorem witness_ApWaitStates :
    ownerOf twoAps 0x03000000#32 = none ∧
      (ownerOf twoAps 0x010000FF#32).map Prod.fst = some 0 ∧
      apWait twoAps 0x0100000C#32 = 8 ∧ apWait twoAps 0x0100001C#32 = 8 ∧ apWait twoAps 0x01000008#32 = 3 ∧
      (ownerOf twoAps 0x0200000C#32).map Prod.fst = some 1 ∧ apWait twoAps 0x0200000C#32 = 0 := by decide

theorem witness_ByteLanes :
    (3#32).toNat % 4 = 3 ∧ (2#32).toNat % 4 ≠ 3 := by decide

theorem witness_TarAdvance :
    (0x23000042#32).extractLsb' 4 2 = 0b00#2 ∧ (0x23000052#32).extractLsb' 4 2 = 0b01#2 ∧
      (0x23000062#32).extractLsb' 4 2 = 0b10#2 ∧ (0x23000072#32).extractLsb' 4 2 = 0b11#2 := by decide

theorem witness_OtherWidthsAre32 :
    (0 ≠ 8 ∧ 0 ≠ 16) ∧ (12 ≠ 8 ∧ 12 ≠ 16) := by decide

theorem witness_FatalErrors :
    (Instr.resetDp).isCommand = true ∧ State.reset.fatal = none ∧ fatalCheck State.reset .resetDp = none ∧
      fatalCheck State.reset (.readAp none ⟨0, none, 0#32⟩) = some .badOption ∧
      fatalCheck State.reset (.memRead (.index 9) none 8 {} false) = some .missingContext ∧
      fatalCheck State.reset (.memSetSize (.index 9) 8) = some .apOwnership ∧
      fatalCheck { State.reset with cfg := { Params.standard with hasSwdDp := false } } (.setDp .swd) =
        some .protocolMisuse := by decide

theorem witness_RefusedUntilReset :
    (Instr.resetDp).isCommand = true ∧ ({ State.reset with fatal := some .badOption } : State).fatal ≠ none ∧
      step { State.reset with fatal := some .badOption } =
        .next { State.reset with fatal := some .badOption } := ⟨rfl, by decide, rfl⟩

theorem witness_SkippedCommands :
    State.reset.fatal = none ∧ (sw 0#32).fatal = none ∧
      resolveDp State.reset.active true (.name .wcr) = none ∧
      resolveDp State.reset.active false (.addr 0x10#32) = none ∧
      resolveDp State.reset.active true (.name .abort) = some .abort ∧
      resolveDp (sw 0#32).active true (.name .select) = some .select ∧ (sw 0#32).active = .swd ∧
      resolveDp State.reset.active false (.name .idcode) = some .idcode ∧
      resolveDp State.reset.active false (.addr 0xC#32) = some .rdbuff ∧
      resolveDp (sw 0#32).active false (.name .resend) = some .resend := by decide

theorem witness_CommandsCounted :
    (Instr.resetDp).isCommand = true ∧ (Instr.irDpacc).isCommand = false ∧
      exec .irDpacc (jt 0xA#4 0#32) = .next (jt 0xA#4 0#32) := ⟨rfl, rfl, rfl⟩

theorem witness_ReadDpIdcode :
    0 < 1 ∧ (⟨5#32, 7#32⟩ : Cmp 32) =
        (match (⟨1, some 5#32, 7#32⟩ : ReadOpts).exp with | some e => ⟨e, 7#32⟩ | none => ⟨0#32, 0#32⟩) ∧
      (jt 0xA#4 0#32).fatal = none ∧ (jt 0xA#4 0#32).active = .jtag ∧
      resolveDp (jt 0xA#4 0#32).active true (.addr 0#32) = some .idcode ∧
      (sw 0#32).fatal = none ∧ (sw 0#32).active = .swd ∧
      resolveDp (sw 0#32).active true (.addr 0#32) = some .idcode := by decide

theorem witness_ReadDpCtrlStat :
    0 < 1 ∧ (⟨5#32, 7#32⟩ : Cmp 32) =
        (match (⟨1, some 5#32, 7#32⟩ : ReadOpts).exp with | some e => ⟨e, 7#32⟩ | none => ⟨0#32, 0#32⟩) ∧
      (jt 0xA#4 0#32).fatal = none ∧ (jt 0xA#4 0#32).active = .jtag ∧
      resolveDp (jt 0xA#4 0#32).active true (.addr 4#32) = some .ctrlStat ∧
      (sw 0#32).fatal = none ∧ (sw 0#32).active = .swd ∧
      resolveDp (sw 0#32).active true (.addr 4#32) = some .ctrlStat := by decide

theorem witness_ReadDpSelect :
    0 < 1 ∧ (⟨5#32, 7#32⟩ : Cmp 32) =
        (match (⟨1, some 5#32, 7#32⟩ : ReadOpts).exp with | some e => ⟨e, 7#32⟩ | none => ⟨0#32, 0#32⟩) ∧
      (jt 0xA#4 0#32).fatal = none ∧ (jt 0xA#4 0#32).active = .jtag ∧
      resolveDp (jt 0xA#4 0#32).active true (.name .select) = some .select ∧
      (sw 0#32).fatal = none ∧ (sw 0#32).active = .swd ∧
      resolveDp (sw 0#32).active true (.name .select) = some .select := by decide

theorem witness_ReadDpRdbuff :
    0 < 1 ∧ (⟨5#32, 7#32⟩ : Cmp 32) =
        (match (⟨1, some 5#32, 7#32⟩ : ReadOpts).exp with | some e => ⟨e, 7#32⟩ | none => ⟨0#32, 0#32⟩) ∧
      (jt 0xA#4 0#32).fatal = none ∧ (jt 0xA#4 0#32).active = .jtag ∧
      resolveDp (jt 0xA#4 0#32).active true (.addr 0xC#32) = some .rdbuff ∧
      (sw 0#32).fatal = none ∧ (sw 0#32).active = .swd ∧
      resolveDp (sw 0#32).active true (.addr 0xC#32) = some .rdbuff := by decide

theorem witness_ReadDpWcr :
    (⟨5#32, 7#32⟩ : Cmp 32) =
        (match (⟨1, some 5#32, 7#32⟩ : ReadOpts).exp with | some e => ⟨e, 7#32⟩ | none => ⟨0#32, 0#32⟩) ∧
      (jt 0xA#4 0#32).fatal = none ∧ (jt 0xA#4 0#32).active = .jtag ∧
      (sw 0#32).fatal = none ∧ (sw 0#32).active = .swd := by decide

theorem witness_ReadDpResend :
    (⟨5#32, 7#32⟩ : Cmp 32) =
        (match (⟨1, some 5#32, 7#32⟩ : ReadOpts).exp with | some e => ⟨e, 7#32⟩ | none => ⟨0#32, 0#32⟩) ∧
      (jt 0xA#4 0#32).active = .jtag ∧ (sw 0#32).fatal = none ∧ (sw 0#32).active = .swd ∧
      resolveDp .swd true (.addr 8#32) = some .resend := by decide

theorem witness_WriteDpSelect :
    0 < 1 ∧ (jt 0xA#4 0#32).fatal = none ∧ (jt 0xA#4 0#32).active = .jtag ∧
      resolveDp (jt 0xA#4 0#32).active false (.addr 8#32) = some .select ∧
      (sw 0#32).fatal = none ∧ (sw 0#32).active = .swd ∧
      resolveDp (sw 0#32).active false (.addr 8#32) = some .select := by decide

theorem witness_WriteDpAbort :
    0 < 1 ∧ (jt 0xA#4 0#32).fatal = none ∧ (jt 0xA#4 0#32).active = .jtag ∧
      resolveDp (jt 0xA#4 0#32).active false (.addr 0#32) = some .abort ∧
      (sw 0#32).fatal = none ∧ (sw 0#32).active = .swd ∧
      resolveDp (sw 0#32).active false (.addr 0#32) = some .abort := by decide

theorem witness_WriteDpCtrlStat :
    0 < 1 ∧ (jt 0xA#4 0#32).fatal = none ∧ (jt 0xA#4 0#32).active = .jtag ∧
      resolveDp (jt 0xA#4 0#32).active false (.addr 4#32) = some .ctrlStat ∧
      (sw 0#32).fatal = none ∧ (sw 0#32).active = .swd ∧
      resolveDp (sw 0#32).active false (.addr 4#32) = some .ctrlStat := by decide

theorem witness_WriteDpWcr :
    (jt 0xA#4 0#32).fatal = none ∧ (jt 0xA#4 0#32).active = .jtag ∧
      (sw 0#32).fatal = none ∧ (sw 0#32).active = .swd := by decide

theorem witness_WriteReadDpComposes :
    State.reset.fatal = none ∧ 0 < ({} : WROpts).wAttempts ∧ 0 < ({} : WROpts).rAttempts := by decide

theorem witness_SelectWrittenOnce :
    0x10000014#32 &&& 0xFF0000F0#32 = 0x1000001C#32 &&& 0xFF0000F0#32 ∧ State.reset.fatal = none ∧
      (jt 0xA#4 0x10#32).apSelect 0x1F#32 = none ∧
      (jt 0xA#4 0x10#32).apSelect 0x20#32 = some 0x20#32 ∧ (sw 1#32).apSelect 0#32 = some 0#32 := by decide

theorem witness_ReadAp :
    (⟨5#32, 7#32⟩ : Cmp 32) =
        (match (⟨1, some 5#32, 7#32⟩ : ReadOpts).exp with | some e => ⟨e, 7#32⟩ | none => ⟨0#32, 0#32⟩) ∧
      State.reset.fatal = none ∧ 0 < ({} : ReadOpts).attempts := by decide

theorem witness_WriteAp :
    (sw 0#32).fatal = none ∧ 0 < ({} : WriteOpts).attempts := by decide

theorem witness_SetApSelect :
    (jt 0xA#4 0#32).fatal = none ∧ (jt 0xA#4 0#32).apSelect 0xC#32 = none := by decide

theorem witness_RawCoherence :
    ownerOf Params.standard 0x100#32 = none ∧ (ownerOf Params.standard 0xFF#32).isSome = true ∧
      standardAp.cls = .memAp ∧ (ownerOf twoAps 0x02000004#32).map (fun x => x.2.cls) = some .generic ∧
      (0x00#32).extractLsb' 0 8 = 0x00#8 ∧ (0x04#32).extractLsb' 0 8 = 0x04#8 ∧
      (0x0C#32).extractLsb' 0 8 ∈ [0x0C#8, 0x10#8, 0x14#8, 0x18#8, 0x1C#8] ∧
      (0x1C#32).extractLsb' 0 8 ∈ [0x0C#8, 0x10#8, 0x14#8, 0x18#8, 0x1C#8] ∧
      (0x08#32).extractLsb' 0 8 ∉ [0x0C#8, 0x10#8, 0x14#8, 0x18#8, 0x1C#8] ∧
      (0x08#32).extractLsb' 0 8 ∉ [0x00#8, 0x04#8] := by decide

theorem witness_MemSetSize_no_memAp :
    memApOf State.reset.cfg (.index 1) = none ∧ memApOf State.reset.cfg (.name (ascii "NOPE")) = none ∧
      memApOf twoAps (.name (ascii "G")) = none ∧ State.reset.fatal = none := by decide

theorem witness_MemSetSize :
    (inc 0x23000052#32 none).fatal = none ∧
      (inc 0x23000052#32 none).mem.length = (inc 0x23000052#32 none).cfg.aps.length ∧
      memApOf (inc 0x23000052#32 none).cfg (.index 0) = some (0, standardAp) ∧
      ((inc 0x23000052#32 none).memAt 0).currentCsw ≠ 0#32 ∧
      ((inc 0x23000052#32 none).memAt 0).currentCsw.extractLsb' 0 3 = sizeEnc (normWidth 32) ∧
      ((inc 0x23000052#32 none).memAt 0).currentCsw.extractLsb' 0 3 ≠ sizeEnc (normWidth 8) ∧
      ((inc 0#32 none).memAt 0).currentCsw = 0#32 ∧
      standardAp.cswReset.extractLsb' 0 3 = sizeEnc (normWidth 32) ∧ standardAp.cswReset.extractLsb' 0 3 ≠ sizeEnc (normWidth 16) := by decide

theorem witness_MemSetAddr :
    (inc 0x23000052#32 (some 0#32)).fatal = none ∧
      memApOf (inc 0x23000052#32 (some 0#32)).cfg (.name (ascii "AP0")) = some (0, standardAp) ∧
      ((inc 0x23000052#32 (some 0#32)).memAt 0).currentTar = some 0#32 ∧
      ((inc 0x23000052#32 (some 0#32)).memAt 0).currentTar ≠ some 4#32 ∧
      ((inc 0x23000052#32 none).memAt 0).currentTar ≠ some 0#32 := by decide

theorem witness_MemWrite :
    (inc 0#32 none).fatal = none ∧ 0 < ({} : WriteOpts).attempts ∧
      memApOf (inc 0#32 none).cfg (.index 0) = some (0, standardAp) := by decide

theorem witness_MemRead :
    (⟨0xAB00#32, 0xFF00#32⟩ : Cmp 32) =
        (match (⟨1, some 0xAB#32, 0xFFFFFFFF#32⟩ : ReadOpts).exp with
        | some e => ⟨getWData (normWidth 8) 1#32 e, getWData (normWidth 8) 1#32 0xFFFFFFFF#32⟩
        | none => ⟨0#32, 0#32⟩) ∧
      (withMem 0#32 none (sw 0#32)).fatal = none ∧ 0 < ({} : ReadOpts).attempts ∧
      memApOf (withMem 0#32 none (sw 0#32)).cfg (.index 0) = some (0, standardAp) := by decide

theorem witness_MemWriteReadComposes :
    State.reset.fatal = none ∧ 0 < ({} : WROpts).wAttempts ∧ 0 < ({} : WROpts).rAttempts := by decide

/-- The hypotheses of AddressCaching on two writes of 32 bits, and the TAR writes counted. -/
def caching (csw a b : Word32) (n : Nat) : Bool :=
  let s := inc csw none
  memApOf s.cfg (.index 0) == some (0, standardAp) && csw != 0#32 && withSize csw (sizeEnc (normWidth 32)) != 0#32 &&
    match exec (.memWrite (.index 0) (some a) 1#32 32 {} false) s with
    | .next t =>
      match exec (.memWrite (.index 0) (some b) 2#32 32 {} false) t with
      | .next u => tarWrites (u.trace.drop s.trace.length) == n
      | _ => false
    | _ => false

theorem witness_AddressCaching :
    caching 0x23000042#32 0x1000#32 0x1000#32 1 = true ∧ caching 0x23000042#32 0x1000#32 0x2000#32 2 = true ∧
      caching 0x23000052#32 0x1000#32 0x1000#32 2 = true ∧ caching 0x23000052#32 0x1000#32 0x1004#32 1 = true ∧
      caching 0x23000062#32 0x13F8#32 0x13FC#32 1 = true ∧
      (standardAp.base.extractLsb' 0 8 = 0#8 ∧ (0x1000 + 4) / 1024 = 0x1000 / 1024) := by decide

theorem witness_SizeInForce :
    (inc 0x23000052#32 none).mem.length = (inc 0x23000052#32 none).cfg.aps.length ∧
      (inc 0x23000052#32 none).fatal = none ∧ memApOf (inc 0x23000052#32 none).cfg (.index 0) = some (0, standardAp) := by decide

theorem witness_SetDp :
    State.reset.fatal = none ∧ State.reset.cfg.hasJtagDp = true ∧ State.reset.cfg.hasSwdDp = true ∧
      ({ Params.standard with hasJtagDp := false } : Params).has .jtag = false := by decide

theorem witness_ResetDp :
    State.reset.fatal = none ∧ State.reset.active = .jtag ∧ (sw 0#32).fatal = none ∧ (sw 0#32).active = .swd := by decide

theorem witness_IrFrames :
    State.reset.fatal = none ∧ State.reset.active = .jtag := by decide

theorem witness_DrAcc35Frame :
    (jt 8#4 0#32).fatal = none ∧ (jt 8#4 0#32).active = .jtag ∧ (jt 8#4 0#32).dpJtag.ir = some 0x8#4 ∧
      (jt 0xB#4 0#32).dpJtag.ir = some 0xB#4 ∧ (jt 0xB#4 0#32).dpJtag.currentSelect = some 0#32 ∧
      ({ State.reset with dpJtag := ⟨none, some 0xB#4, false⟩ } : State).dpJtag.currentSelect = none ∧
      State.reset.dpJtag.ir ≠ some 0x8#4 ∧ State.reset.dpJtag.ir ≠ some 0xB#4 ∧
      (jt 0xA#4 0#32).dpJtag.ir ≠ some 0x8#4 ∧ (jt 0xA#4 0#32).dpJtag.ir ≠ some 0xB#4 := by decide

theorem witness_CaptureAndIdcodeFrames :
    State.reset.fatal = none ∧ State.reset.active = .jtag := by decide

theorem witness_SwdDpReadFrames :
    (sw 0#32).fatal = none ∧ (sw 0#32).active = .swd := by decide

theorem witness_SwdDpWriteFrames :
    (sw 0x10#32).fatal = none ∧ (sw 0x10#32).active = .swd ∧
      ((sw 0x10#32).dpSwd.currentSelect.getD 0#32).extractLsb' 0 4 = 0#4 ∧
      ((sw 1#32).dpSwd.currentSelect.getD 0#32).extractLsb' 0 4 ≠ 0#4 := by decide

theorem witness_SwdApFrames :
    (sw 0#32).fatal = none ∧ (sw 0#32).active = .swd ∧ (sw 0#32).dpSwd.currentSelect = some 0#32 := by decide

theorem witness_FrameStops :
    frameTransport .swdDpRA00 = some .swd ∧ State.reset.fatal = none ∧ State.reset.active ≠ .swd ∧
      ({ State.reset with fatal := some .badOption } : State).fatal ≠ none := by decide

theorem witness_ResetHasInvariants :
    twoAps.wf = true ∧ twoAps.dpSelectReset = none := by decide

theorem witness_StepKeepsInv :
    State.reset.Inv ∧ step State.reset = .next State.reset := ⟨⟨rfl, fun _ => rfl, nofun, rfl⟩, rfl⟩

theorem witness_StepKeepsCachesTrue :
    State.reset.CachesTrue ∧ step State.reset = .next State.reset := ⟨⟨rfl, nofun, nofun, nofun, fun _ => rfl⟩, rfl⟩

theorem witness_CapturesSteerNothing :
    (withBits [1#35] State.reset).blind = (withBits [2#35] State.reset).blind ∧
      State.reset.cfg.cswSeedSource = .resetValue ∧
      (step { State.reset with port := [⟨.jtagIr4, []⟩] } = .refused (.undecodable .badLength)) := ⟨rfl, rfl, rfl⟩

theorem witness_JtagCommandTraffic :
    (Instr.setApSelect (some 0#32)).isCommand = true ∧ (jt 0xA#4 0#32).active = .jtag ∧
      ∃ t, exec (.setApSelect (some 0#32)) (jt 0xA#4 0#32) = .next t := ⟨rfl, rfl, _, rfl⟩

theorem witness_SwdPacketTraffic :
    (sw 0#32).active = .swd ∧ ∃ t, exec .swdDpRA00 (sw 0#32) = .next t := ⟨rfl, _, rfl⟩

/-- The hypotheses of JtagClockTotals under an IR cache, for one command, with its scans and idle clocks. -/
def totals (c : Word4) (i : Instr) (n : Nat × Nat × Nat) : Bool :=
  let s := jt c 0#32
  s.fatal == none && s.active == .jtag && s.cfg.accAccessDly == 7 && s.cfg.writeApDly == 8 &&
    apWait s.cfg 4#32 == 0 && s.apSelect 4#32 == none &&
    match exec i s with
    | .next t => (irScans t.trace, drScans t.trace, idleClocks t.trace) == n
    | _ => false

theorem witness_JtagClockTotals :
    totals 0xA#4 (.writeDp (.name .ctrlStat) 0#32 {}) (0, 1, 7) = true ∧
      totals 0xA#4 (.readDp (.name .ctrlStat) {}) (0, 2, 14) = true ∧
      totals 0xA#4 (.readDp (.name .idcode) {}) (1, 1, 7) = true ∧
      totals 0xB#4 (.writeAp (some 4#32) 0#32 {}) (0, 1, 15) = true ∧
      totals 0xA#4 (.readAp (some 4#32) {}) (2, 2, 14) = true ∧
      totals 0xA#4 (.writeDp (.name .abort) 0#32 {}) (1, 1, 7) = true := by decide

end Sys2Proof.Tests
end

/-! What reset leaves satisfies the two invariants of a session (R330, R331). -/

namespace Sys2Proof.Machine

/-- R8: where a Debug Port is configured at all, so is the default one. -/
theorem has_defaultDp_of_wf {c : Params} (hwf : c.wf = true)
    (hdp : (c.hasJtagDp || c.hasSwdDp) = true) : c.has c.defaultDp = true := by
  obtain ⟨-, hdefault⟩ := Bool.and_eq_true_iff.mp hwf
  rwa [hdp, Bool.not_true, Bool.or_false] at hdefault

/-- R331: reset is fatal exactly where no Debug Port is configured. -/
theorem resetWith_fatal_eq_none_iff {c : Params} :
    (State.resetWith c).fatal = none ↔ (c.hasJtagDp || c.hasSwdDp) = true := by
  cases hdp : c.hasJtagDp || c.hasSwdDp <;> simp [State.resetWith, hdp]

/-- R330, R331: the active Debug Port is a configured one because R8 asks it of the default. -/
theorem resetWith_inv {c : Params} (hwf : c.wf = true) : (State.resetWith c).Inv := by
  have hmem : (State.resetWith c).mem.length = c.aps.length := List.length_map _
  have hactive (hfatal : (State.resetWith c).fatal = none) : c.has c.defaultDp = true :=
    has_defaultDp_of_wf hwf (resetWith_fatal_eq_none_iff.mp hfatal)
  have hir : (State.resetWith c).dpJtag.ir = none := rfl
  exact ⟨hmem, hactive, by simp [hir], rfl⟩

/-- R23, R24: both caches are empty at reset, so they claim nothing of the empty trace. -/
theorem resetWith_cachesTrue {c : Params} (hselect : c.dpSelectReset = none) :
    (State.resetWith c).CachesTrue := by
  have hir : (State.resetWith c).dpJtag.ir = none := rfl
  have hjtag : (State.resetWith c).dpJtag.currentSelect = none := hselect
  have hswd : (State.resetWith c).dpSwd.currentSelect = none := hselect
  exact ⟨hselect, by simp [hir], by simp [hjtag], by simp [hswd], fun _ => hjtag⟩

/-- Settles O53: configuration CFG is one that R8 admits and that has no `DP_SELECT_RESET`, so the two
general facts give `State.reset` too. -/
theorem resetHasInvariants : Obligations.ResetHasInvariants :=
  have hwf : Params.standard.wf = true := by decide
  have hselect : Params.standard.dpSelectReset = none := rfl
  ⟨resetWith_inv hwf, resetWith_cachesTrue hselect,
    fun _ => resetWith_inv, fun _ => resetWith_cachesTrue⟩

end Sys2Proof.Machine

/-! What one instruction can do to the engine, said once for commands and wire frames together, and what
of it every instruction leaves (R20 to R24, R40). -/

namespace Sys2Proof.Machine

/-! ### How a frame ends -/

/-- What a wire frame that ran on its transport did: the moves of a command, or one of the three things
that only a lone frame does. -/
inductive FrameEnding (s : State) : State → Prop where
  | moved (t : State) : Moves s t → FrameEnding s t
  /-- an IR scan that no access follows (R192) -/
  | irScanned (c : IrCode) : FrameEnding s
      { s.after (irEvents s.dpJtag.ir c) 0 with dpJtag := { s.dpJtag with ir := some (irValue c) } }
  /-- a 35-bit scan under the ABORT in force, at any sub-address (log entry 26) -/
  | abortScanned (tdi : Word35) : s.dpJtag.ir = some (irValue .abort) → FrameEnding s
      { s.after (jtagEvents s.cfg s.dpJtag.ir .abort (.drScan35 tdi (noCmp 35)) 1) 1 with
        dpJtag := { s.dpJtag with ir := some (irValue .abort) } }
  /-- the arrival of a capture (R84, R312) -/
  | captured (data : Word32) (ack : Word3) : FrameEnding s (captureFrame data ack s)

theorem irFrame_ending (c : IrCode) (s : State) : FrameEnding s (irFrame c s) := by
  rw [irFrame, jtagSetIr_eq]
  exact .irScanned c

theorem dr35Frame_ending (d : Word32) (a : BitVec 2) (r : Bool) (s : State) (hs : s.active = .jtag) :
    FrameEnding s (dr35Frame d a r s) := by
  by_cases hir : s.dpJtag.ir = some (irValue .abort)
  · have hclass : dr35Class s.dpJtag.ir = .abort := by simp [dr35Class, hir]
    rw [dr35Frame_eq, hclass]
    exact .abortScanned _ hir
  · exact .moved _ (dr35Frame_moves d a r s hs hir)

theorem swdReadFrame_ending (p : Bool) (a : BitVec 2) (s : State) (hs : s.active = .swd) :
    FrameEnding s ((if p then swdApFrame true a 0#32 else swdDpFrame true a 0#32) s) := by
  have hpacket : Moves s (swdPacket p true a 0#32 (noCmp 32) s).1 :=
    swdAccess_move p true a 0#32 1 (noCmp 32) s hs Nat.one_pos (.inr (.inl rfl))
  cases p with
  | false => exact .moved _ hpacket
  | true => exact .moved _ (hpacket.trans (apFrameCoherence_moves _ _ _))

/-- Where a DP write is not one of SELECT, at most `orun_detect` follows it. -/
theorem dpWriteCoherence_moves (a : BitVec 2) (v : Word32) (s : State) (ha : a ≠ 0b10#2) :
    Moves s (dpWriteCoherence a v s) := by
  unfold dpWriteCoherence
  rw [if_neg ha]
  repeat' split
  all_goals first | exact .refl s | exact .single (.orun s _ _)

theorem swdDpWriteFrame_moves (a : BitVec 2) (v : Word32) (s : State) (hs : s.active = .swd) :
    Moves s (swdDpFrame false a v s) := by
  by_cases ha : a = 0b10#2
  · subst ha
    have hselect : swdDpFrame false 0b10#2 v s = writeSelect v 1 s := by
      simp [swdDpFrame, dpWriteCoherence, writeSelect, dpAccess, swdAccess, swdRepeat,
        swdPacket_write, hs]
    rw [hselect]
    exact writeSelect_moves v 1 s Nat.one_pos
  · have hpacket : Moves s (swdPacket false false a v (noCmp 32) s).1 :=
      swdAccess_move false false a v 1 (noCmp 32) s hs Nat.one_pos (.inr (.inr ha))
    exact hpacket.trans (dpWriteCoherence_moves a v _ ha)

theorem swdWriteFrame_ending (p : Bool) (a : BitVec 2) (v : Word32) (s : State) (hs : s.active = .swd) :
    FrameEnding s ((if p then swdApFrame false a v else swdDpFrame false a v) s) := by
  cases p with
  | false => exact .moved _ (swdDpWriteFrame_moves a v s hs)
  | true =>
    have hpacket : Moves s (swdPacket true false a v (noCmp 32) s).1 :=
      swdAccess_move true false a v 1 (noCmp 32) s hs Nat.one_pos (.inl rfl)
    exact .moved _ (hpacket.trans (apFrameCoherence_moves _ _ _))

/-- A wire frame whose body ends so ends so itself, in the fatal state by no move. -/
theorem wireFrame_ending {k : Transport} {body : State → State} {s t : State}
    (hbody : s.active = k → FrameEnding s (body s)) (h : wireFrame k body s = .next t) :
    FrameEnding s t := by
  rcases wireFrame_inv h with rfl | ⟨-, hk, rfl⟩
  · exact .moved _ (.refl _)
  · exact hbody hk

theorem frame_ending (i : Instr) (hi : ¬i.isCommand = true) {s t : State} (h : exec i s = .next t) :
    FrameEnding s t := by
  rcases frame_cases i hi with ⟨c, rfl⟩ | ⟨d, a, r, rfl⟩ | ⟨d, k, rfl⟩ | rfl | ⟨p, a, rfl⟩ |
    ⟨p, a, v, rfl⟩
  · exact wireFrame_ending (fun _ => irFrame_ending c s) (exec_irInstr c s ▸ h)
  · exact wireFrame_ending (dr35Frame_ending d a r s) h
  · exact wireFrame_ending (fun _ => .captured d k) h
  · exact wireFrame_ending (fun hk => .moved _ (dr32Frame_moves s hk)) h
  · exact wireFrame_ending (swdReadFrame_ending p a s) (exec_swdReadInstr p a s ▸ h)
  · exact wireFrame_ending (swdWriteFrame_ending p a v s) (exec_swdWriteInstr p a v s ▸ h)

/-! ### What an instruction leaves -/

/-- What every instruction leaves up to its response. -/
structure State.Framed (s t : State) : Prop where
  cfg : t.cfg = s.cfg
  pc : t.pc = s.pc
  responses : t.responses = s.responses
  port : t.port = s.port
  trace : ∃ es, t.trace = s.trace ++ es

theorem State.Kept.framed {s t : State} (h : s.Kept t) : s.Framed t :=
  ⟨h.cfg, h.pc, h.responses, h.port, h.trace⟩

theorem setDpBody_framed (k : Transport) (s : State) (hk : s.cfg.has k = true) :
    s.Framed (setDpBody k s).1 := by
  rw [setDpBody_eq k s hk]
  cases k <;> exact ⟨rfl, rfl, rfl, rfl, [], (List.append_nil _).symm⟩

theorem resetDpBody_kept (s : State) : s.Kept (resetDpBody s).1 := by
  rw [resetDpBody_eq]
  split <;> exact ⟨rfl, rfl, rfl, rfl, rfl, rfl, rfl, [], (List.append_nil _).symm⟩

/-- Only `set_dp` changes the active Debug Port (R22). -/
theorem Ending.framed {i : Instr} {s : State} {p : State × Response} (h : Ending i s p) :
    s.Framed p.1 ∧ ((∀ k, i ≠ .setDp k) → p.1.active = s.active) := by
  cases h with
  | moved t r hm => exact ⟨hm.kept.framed, fun _ => hm.kept.active⟩
  | fatal c => exact ⟨⟨rfl, rfl, rfl, rfl, [], (List.append_nil _).symm⟩, fun _ => rfl⟩
  | setDp k hi hk => exact ⟨setDpBody_framed k s hk, fun hne => absurd hi (hne k)⟩
  | resetDp hi => exact ⟨(resetDpBody_kept s).framed, fun _ => (resetDpBody_kept s).active⟩

/-- A refusal and a zero attempt count end a command as a chain of no moves and a fatal error do. -/
theorem command_ending (i : Instr) (h : i.isCommand = true) (s : State) :
    ∃ p : State × Response, exec i s = .next (p.1.answered p.2) ∧ Ending i s p := by
  obtain ⟨p, hp, rfl | rfl | he⟩ := command_cases i h s
  · exact ⟨_, hp, .moved s _ (.refl s)⟩
  · exact ⟨_, hp, .fatal .badOption⟩
  · exact ⟨p, hp, he⟩

/-- What a command answers is its ending with one response appended (R21, R311). -/
theorem command_inv (i : Instr) (h : i.isCommand = true) {s t : State} (ht : exec i s = .next t) :
    ∃ p : State × Response, t = p.1.answered p.2 ∧ Ending i s p := by
  obtain ⟨p, hp, he⟩ := command_ending i h s
  exact ⟨p, Host.Outcome.next.inj (ht.symm.trans hp), he⟩

theorem exec_framed (i : Instr) {s t : State} (ht : exec i s = .next t) :
    t.cfg = s.cfg ∧ (∃ es, t.trace = s.trace ++ es) ∧ t.port = s.port ∧
      ((∀ k, i ≠ .setDp k) → t.active = s.active) := by
  by_cases hi : i.isCommand = true
  · obtain ⟨p, rfl, he⟩ := command_inv i hi ht
    obtain ⟨hf, hactive⟩ := he.framed
    exact ⟨hf.cfg, hf.trace, hf.port, hactive⟩
  · have hk := frame_kept i hi ht
    exact ⟨hk.cfg, hk.trace, hk.port, fun _ => hk.active⟩

/-- Settles O20: a command ends as `Ending` says and is then answered once; a frame ends by what
`frame_kept` leaves. -/
theorem commandsCounted : Obligations.CommandsCounted := by
  refine ⟨fun i s hi => ?_, fun i s t ht => ?_⟩
  · obtain ⟨p, hp, he⟩ := command_ending i hi s
    have hf := he.framed.1
    exact ⟨_, p.2, hp, congrArg (· + 1) hf.pc, congrArg (· ++ [p.2]) hf.responses⟩
  · obtain ⟨hcfg, htrace, hport, hactive⟩ := exec_framed i ht
    refine ⟨hcfg, htrace, hport, hactive, fun hi => ?_⟩
    have hk := frame_kept i (by simp [hi]) ht
    exact ⟨hk.pc, hk.responses⟩

/-! ### A frame that stops -/

theorem wireFrame_fatal (k : Transport) (body : State → State) (s : State) (hf : s.fatal ≠ none) :
    wireFrame k body s = .next s := by
  have : s.fatal.isSome = true := Option.isSome_iff_ne_none.mpr hf
  simp [wireFrame, this]

theorem wireFrame_offTransport (k : Transport) (body : State → State) (s : State)
    (hf : s.fatal = none) (hk : s.active ≠ k) :
    wireFrame k body s = .refused (.frameOffTransport k) := by
  simp [wireFrame, hf, hk]

/-- Settles O52: every frame is a `wireFrame` of its transport, which asks for the fatal state and then
for the active transport. -/
theorem frameStops : Obligations.FrameStops := by
  intro i s k hi
  obtain ⟨body, hexec⟩ := exec_frame i k hi
  rw [hexec s]
  exact ⟨wireFrame_fatal k body s, wireFrame_offTransport k body s⟩

end Sys2Proof.Machine

/-! The invariant of the state (R20, R22, R24, R81). -/

namespace Sys2Proof.Machine

/-! ### The step -/

/-- A step idles, or runs one instruction with its item taken off the port. -/
theorem step_inv {s t : State} (h : step s = .next t) :
    t = s ∨ ∃ i ps, exec i { s with port := ps } = .next t := by
  unfold step takeItem at h
  cases hp : s.port with
  | nil =>
    simp only [hp] at h
    exact .inl (Host.Outcome.next.inj h).symm
  | cons p ps =>
    simp only [hp] at h
    cases hd : decode p with
    | error e => simp [hd] at h
    | ok i =>
      simp only [hd] at h
      exact .inr ⟨i, ps, h⟩

/-- An invariant that neither reads the port nor the response just delivered is kept by every step once it
is kept by every ending of a command and every ending of a frame. -/
theorem step_keeps {P : State → Prop}
    (hport : ∀ s ps, P s → P { s with port := ps })
    (hanswer : ∀ s r, P s → P (s.answered r))
    (hcommand : ∀ i s p, Ending i s p → P s → P p.1)
    (hframe : ∀ s t, FrameEnding s t → P s → P t)
    {s t : State} (h : step s = .next t) (hs : P s) : P t := by
  rcases step_inv h with rfl | ⟨i, ps, hexec⟩
  · exact hs
  · by_cases hi : i.isCommand = true
    · obtain ⟨p, rfl, he⟩ := command_inv i hi hexec
      exact hanswer _ _ (hcommand i _ p he (hport s ps hs))
    · exact hframe _ _ (frame_ending i hi hexec) (hport s ps hs)

/-! ### Keeping the invariant -/

/-- The two IR caches as the invariant has them (R24, R81). -/
def State.IrInv (s : State) : Prop :=
  (∀ v, s.dpJtag.ir = some v → ∃ c, v = irValue c) ∧ s.dpSwd.ir = none

theorem State.Inv.irInv {s : State} (h : s.Inv) : s.IrInv := h.2.2

/-- An IR cache that was just set holds a code (R181). -/
theorem State.irInv_of_ir {t : State} {c : IrCode} (hjtag : t.dpJtag.ir = some (irValue c))
    (hswd : t.dpSwd.ir = none) : t.IrInv :=
  ⟨fun _ hv => ⟨c, Option.some.inj (hv.symm.trans hjtag)⟩, hswd⟩

theorem Move.irInv {s t : State} (h : Move s t) (hs : s.IrInv) : t.IrInv := by
  cases h with
  | jtag | jtagSelect => exact State.irInv_of_ir rfl hs.2
  | orun k b => cases k <;> exact hs
  | _ => exact hs

/-- What keeps the length of `mem`, the fatal state and the active Debug Port keeps the invariant where
it keeps what it says of the IR caches. -/
theorem State.Kept.inv {s t : State} (h : s.Kept t) (hs : s.Inv) (hir : t.IrInv) : t.Inv := by
  obtain ⟨hmem, hactive, -⟩ := hs
  refine ⟨?_, ?_, hir⟩
  · rw [h.memLength, h.cfg, hmem]
  · rw [h.fatal, h.cfg, h.active]
    exact hactive

theorem Moves.inv {s t : State} (h : Moves s t) (hs : s.Inv) : t.Inv :=
  h.kept.inv hs (h.keeps (fun _ _ m => m.irInv) hs.irInv)

theorem setDpBody_inv (k : Transport) (s : State) (hk : s.cfg.has k = true) (hs : s.Inv) :
    (setDpBody k s).1.Inv := by
  obtain ⟨hmem, -, hjtag, hswd⟩ := hs
  rw [setDpBody_eq k s hk]
  cases k with
  | jtag => exact ⟨hmem, fun _ => hk, nofun, hswd⟩
  | swd => exact ⟨hmem, fun _ => hk, hjtag, hswd⟩

theorem resetDpBody_inv (s : State) (hs : s.Inv) : (resetDpBody s).1.Inv := by
  obtain ⟨hjtag, hswd⟩ := hs.irInv
  refine (resetDpBody_kept s).inv hs ?_
  rw [resetDpBody_eq]
  split
  · exact ⟨nofun, hswd⟩
  · exact ⟨hjtag, hswd⟩

theorem Ending.inv {i : Instr} {s : State} {p : State × Response} (h : Ending i s p) (hs : s.Inv) :
    p.1.Inv := by
  cases h with
  | moved t r hm => exact hm.inv hs
  | fatal c =>
    obtain ⟨hmem, -, hir⟩ := hs
    exact ⟨hmem, nofun, hir⟩
  | setDp k _ hk => exact setDpBody_inv k s hk hs
  | resetDp => exact resetDpBody_inv s hs

theorem FrameEnding.inv {s t : State} (h : FrameEnding s t) (hs : s.Inv) : t.Inv := by
  obtain ⟨hmem, hactive, hir⟩ := hs
  cases h with
  | moved _ hm => exact hm.inv ⟨hmem, hactive, hir⟩
  | irScanned | abortScanned => exact ⟨hmem, hactive, State.irInv_of_ir rfl hir.2⟩
  | captured => exact ⟨hmem, hactive, hir⟩

/-- Settles O54: a chain of moves keeps the lengths and the transport and sets the IR cache to codes only,
and so for the endings of `set_dp`, `reset_dp` and the lone frames. -/
theorem stepKeepsInv : Obligations.StepKeepsInv := fun _ _ hs h =>
  step_keeps (P := State.Inv) (fun _ _ hs => hs) (fun _ _ hs => hs) (fun _ _ _ he => he.inv)
    (fun _ _ he => he.inv) h hs

end Sys2Proof.Machine

/-! The SELECT and IR caches against what an observer of the wire knows (R23, R24, R81, R82, R85). -/

namespace Sys2Proof.Machine

/-! ### What the traffic tells the observer -/

/-- What some more events tell an observer. -/
def Observer.watch (w : Observer) (es : List TransportEvent) : Observer := es.foldl Observer.see w

theorem observe_append (es fs : List TransportEvent) : observe (es ++ fs) = (observe es).watch fs :=
  List.foldl_append

theorem Observer.watch_append (w : Observer) (es fs : List TransportEvent) :
    w.watch (es ++ fs) = (w.watch es).watch fs :=
  List.foldl_append

theorem Observer.watch_idleEvents (w : Observer) (n : Nat) : w.watch (idleEvents n) = w := by
  unfold idleEvents
  split <;> rfl

/-- The IR after its selection (R181): scanned, or in force already where the cache is right. -/
theorem Observer.watch_irEvents (w : Observer) (ir : Option Word4) (c : IrCode)
    (hir : ∀ v, ir = some v → w.ir = some v) :
    w.watch (irEvents ir c) = { w with ir := some (irValue c) } := by
  unfold irEvents
  split
  · rename_i h
    show w = _
    rw [← hir _ h]
  · rfl

/-- A repeated event tells no more than the event once, where a second one tells nothing new. -/
theorem Observer.watch_replicate (w : Observer) (e : TransportEvent) (n : Nat) (hn : 0 < n)
    (he : (w.see e).see e = w.see e) : w.watch (List.replicate n e) = w.see e := by
  obtain ⟨m, rfl⟩ := Nat.exists_eq_succ_of_ne_zero hn.ne'
  have again : ∀ k, (w.see e).watch (List.replicate k e) = w.see e := by
    intro k
    induction k with
    | zero => rfl
    | succ k ih =>
      show ((w.see e).see e).watch (List.replicate k e) = w.see e
      rw [he, ih]
  exact again m

/-- One JTAG access (R180). -/
theorem Observer.watch_jtagEvents (w : Observer) (cfg : Params) (ir : Option Word4) (c : IrCode)
    (scan : TransportEvent) (n : Nat) (hir : ∀ v, ir = some v → w.ir = some v) (hn : 0 < n)
    {w' : Observer} (hscan : ({ w with ir := some (irValue c) } : Observer).see scan = w')
    (hagain : w'.see scan = w') : w.watch (jtagEvents cfg ir c scan n) = w' := by
  rw [jtagEvents, watch_append, watch_append, watch_idleEvents, watch_irEvents w ir c hir,
    watch_replicate _ scan n hn (by rw [hscan, hagain]), hscan]

/-- A scan of 35 bits that is no SELECT write tells nothing. -/
theorem Observer.see_drScan35 (w : Observer) (c : IrCode) (tdi : Word35) (cmp : Cmp 35)
    (hw : w.ir = some (irValue c)) (h : ¬isSelectScan c (.drScan35 tdi cmp)) :
    w.see (.drScan35 tdi cmp) = w := by
  refine if_neg fun ⟨hdpacc, hlow⟩ => h ⟨?_, tdi, cmp, rfl, hlow⟩
  have hc : irValue c = irValue .dpacc := Option.some.inj (hw.symm.trans hdpacc)
  cases c with
  | dpacc => rfl
  | _ => exact absurd hc (by decide)

/-- The data of a shift-in value (R82). -/
theorem drValue_data (data : Word32) (a : BitVec 2) (rnw : Bool) :
    (drValue data a rnw).extractLsb' 3 32 = data := by
  apply BitVec.eq_of_getLsbD_eq
  intro i hi
  have h35 : 3 + i < 35 := by omega
  simp [drValue, hi, h35]

/-- The scan of a SELECT write (R131) tells the value written. -/
theorem Observer.see_selectScan (w : Observer) (v : Word32) (hw : w.ir = some (irValue .dpacc)) :
    w.see (plainScan v 0b10#2 false) = { w with selectJtag := some v } := by
  have hlow : (drValue v 0b10#2 false).extractLsb' 0 3 = 0b100#3 := drValue_low v _ _
  have hdata : (drValue v 0b10#2 false).extractLsb' 3 32 = v := drValue_data v _ _
  show (if _ then _ else _) = _
  rw [if_pos ⟨hw, hlow⟩, hdata]

theorem swdRequest_read_ne_select (p : Bool) (a : BitVec 2) : swdRequest p true a ≠ 0xB1#8 := by
  revert p a
  decide

theorem swdRequest_write_ne_select (p : Bool) (a : BitVec 2) (h : p = true ∨ a ≠ 0b10#2) :
    swdRequest p false a ≠ 0xB1#8 := by
  revert p a
  decide

theorem Observer.watch_readPacket (w : Observer) (cfg : Params) (p : Bool) (a : BitVec 2)
    (cmp : Cmp 32) : w.watch (readPacket cfg p a cmp) = { w with selecting := false } := by
  simp [watch, readPacket, see, swdRequest_read_ne_select]

/-- A write packet that is not of SELECT tells nothing. -/
theorem Observer.watch_writePacket (w : Observer) (cfg : Params) (p : Bool) (a : BitVec 2) (v : Word32)
    (h : p = true ∨ a ≠ 0b10#2) : w.watch (writePacket cfg p a v) = { w with selecting := false } := by
  simp [watch, writePacket, see, swdRequest_write_ne_select p a h]

theorem Observer.watch_selectPacket (w : Observer) (cfg : Params) (v : Word32) :
    w.watch (writePacket cfg false 0b10#2 v) = { w with selectSwd := some v, selecting := false } := by
  have hreq : swdRequest false false 0b10#2 = 0xB1#8 := by decide
  simp [watch, writePacket, see, hreq]

/-! ### The caches agree with the observer -/

/-- The caches of the two Debug Ports say nothing that the observer does not know, and a JTAG SELECT value
is held only together with an IR code. -/
structure Agrees (jtag swd : DpState) (w : Observer) : Prop where
  ir : ∀ c, jtag.ir = some c → w.ir = some c
  selectJtag : ∀ v, jtag.currentSelect = some v → w.selectJtag = some v
  selectSwd : ∀ v, swd.currentSelect = some v → w.selectSwd = some v
  together : jtag.ir = none → jtag.currentSelect = none

theorem State.cachesTrue_iff (s : State) : s.CachesTrue ↔
    s.cfg.dpSelectReset = none ∧ Agrees s.dpJtag s.dpSwd (observe s.trace) :=
  ⟨fun ⟨hcfg, hir, hj, hs, ht⟩ => ⟨hcfg, hir, hj, hs, ht⟩,
    fun ⟨hcfg, hir, hj, hs, ht⟩ => ⟨hcfg, hir, hj, hs, ht⟩⟩

section

variable {jtag swd : DpState} {w : Observer}

/-- The IR scanned, as the cache then holds it. -/
theorem Agrees.see_irScan (h : Agrees jtag swd w) (v : Word4) :
    Agrees { jtag with ir := some v } swd { w with ir := some v } :=
  ⟨fun _ hc => hc, h.selectJtag, h.selectSwd, nofun⟩

theorem Agrees.notSelecting (h : Agrees jtag swd w) : Agrees jtag swd { w with selecting := false } :=
  ⟨h.ir, h.selectJtag, h.selectSwd, h.together⟩

theorem Agrees.watch_jtagEvents (h : Agrees jtag swd w) (cfg : Params) (c : IrCode)
    (scan : TransportEvent) (n : Nat) (hn : 0 < n)
    (hscan : ∀ w : Observer, w.ir = some (irValue c) → w.see scan = w) :
    Agrees { jtag with ir := some (irValue c) } swd (w.watch (jtagEvents cfg jtag.ir c scan n)) := by
  rw [w.watch_jtagEvents cfg jtag.ir c scan n h.ir hn (hscan _ rfl) (hscan _ rfl)]
  exact h.see_irScan _

theorem Agrees.watch_selectScans (h : Agrees jtag swd w) (cfg : Params) (v : Word32) (n : Nat)
    (hn : 0 < n) :
    Agrees { jtag with currentSelect := some v, ir := some (irValue .dpacc) } swd
      (w.watch (jtagEvents cfg jtag.ir .dpacc (plainScan v 0b10#2 false) n)) := by
  rw [w.watch_jtagEvents cfg jtag.ir .dpacc _ n h.ir hn (Observer.see_selectScan _ v rfl)
    (Observer.see_selectScan _ v rfl)]
  exact ⟨fun _ hc => hc, fun _ hv => hv, h.selectSwd, nofun⟩

theorem Agrees.watch_repeatEvents (h : Agrees jtag swd w) (n : Nat) (es : List TransportEvent)
    (hes : ∀ w, Agrees jtag swd w → Agrees jtag swd (w.watch es)) :
    Agrees jtag swd (w.watch (repeatEvents n es)) := by
  induction n generalizing w with
  | zero => exact h
  | succ n ih =>
    rw [repeatEvents_succ, Observer.watch_append]
    exact ih (hes w h)

/-- One SELECT write packet makes the SELECT cache true, the later ones of the same value leave it so. -/
theorem Agrees.watch_selectPackets (h : Agrees jtag swd w) (cfg : Params) (v : Word32) (n : Nat)
    (hn : 0 < n) :
    Agrees jtag { swd with currentSelect := some v }
      (w.watch (repeatEvents n (writePacket cfg false 0b10#2 v))) := by
  have packet : ∀ {d : DpState} w, Agrees jtag d w →
      Agrees jtag { d with currentSelect := some v } (w.watch (writePacket cfg false 0b10#2 v)) := by
    intro d w h
    rw [Observer.watch_selectPacket]
    exact ⟨h.ir, h.selectJtag, fun _ hv => hv, h.together⟩
  obtain ⟨m, rfl⟩ := Nat.exists_eq_succ_of_ne_zero hn.ne'
  rw [repeatEvents_succ, Observer.watch_append]
  exact (packet w h).watch_repeatEvents m _ packet

end

/-! ### Keeping the caches true -/

/-- An event sequence after which the caches still agree with the observer keeps them true. -/
theorem State.CachesTrue.of_trace {s t : State} {es : List TransportEvent} (hs : s.CachesTrue)
    (hcfg : t.cfg = s.cfg) (htrace : t.trace = s.trace ++ es)
    (h : Agrees s.dpJtag s.dpSwd (observe s.trace) →
      Agrees t.dpJtag t.dpSwd ((observe s.trace).watch es)) : t.CachesTrue := by
  obtain ⟨hreset, hagrees⟩ := s.cachesTrue_iff.mp hs
  rw [State.cachesTrue_iff, hcfg, htrace, observe_append]
  exact ⟨hreset, h hagrees⟩

/-- A scan of a command (R98) that is no SELECT write tells nothing. -/
theorem Observer.see_scanUnder (w : Observer) (c : IrCode) (scan : TransportEvent)
    (hw : w.ir = some (irValue c)) (hc : scanUnder c scan = true) (h : ¬isSelectScan c scan) :
    w.see scan = w := by
  cases scan with
  | drScan35 tdi cmp => exact w.see_drScan35 c tdi cmp hw h
  | drScan32 tdi cmp => rfl
  | _ => cases c <;> cases hc

theorem Move.cachesTrue {s t : State} (m : Move s t) (hs : s.CachesTrue) : t.CachesTrue := by
  cases m with
  | jtag c scan n ack _ hc hn h =>
    exact hs.of_trace rfl rfl fun ha =>
      ha.watch_jtagEvents s.cfg c scan n hn fun w hw => w.see_scanUnder c scan hw hc h
  | jtagSelect v n _ hn => exact hs.of_trace rfl rfl fun ha => ha.watch_selectScans s.cfg v n hn
  | swdRead p a cmp n ack _ =>
    refine hs.of_trace rfl rfl fun ha => ha.watch_repeatEvents n _ fun w hw => ?_
    rw [w.watch_readPacket]
    exact hw.notSelecting
  | swdWrite p a v n ack _ h =>
    refine hs.of_trace rfl rfl fun ha => ha.watch_repeatEvents n _ fun w hw => ?_
    rw [w.watch_writePacket _ _ _ _ h]
    exact hw.notSelecting
  | swdSelect v n ack _ hn => exact hs.of_trace rfl rfl fun ha => ha.watch_selectPackets s.cfg v n hn
  | idle n =>
    refine hs.of_trace rfl rfl fun ha => ?_
    rw [Observer.watch_idleEvents]
    exact ha
  | orun k b => cases k <;> exact hs
  | mem i m => exact hs

theorem Moves.cachesTrue {s t : State} (h : Moves s t) (hs : s.CachesTrue) : t.CachesTrue :=
  h.keeps (fun _ _ m => m.cachesTrue) hs

/-- `set_dp` forgets the SELECT cache of the Debug Port it makes active, and the IR cache with it (R280). -/
theorem setDpBody_cachesTrue (k : Transport) (s : State) (hk : s.cfg.has k = true) (hs : s.CachesTrue) :
    (setDpBody k s).1.CachesTrue := by
  obtain ⟨hreset, hir, hjtag, hswd, htogether⟩ := hs
  rw [setDpBody_eq k s hk]
  cases k with
  | jtag => exact ⟨hreset, nofun, nofun, hswd, fun _ => rfl⟩
  | swd => exact ⟨hreset, hir, hjtag, nofun, htogether⟩

/-- `reset_dp` forgets too, `DP_SELECT_RESET` being none (R281). -/
theorem resetDpBody_cachesTrue (s : State) (hs : s.CachesTrue) : (resetDpBody s).1.CachesTrue := by
  obtain ⟨hreset, hir, hjtag, hswd, htogether⟩ := hs
  rw [resetDpBody_eq, hreset]
  split
  · exact ⟨hreset, nofun, nofun, hswd, fun _ => rfl⟩
  · exact ⟨hreset, hir, hjtag, nofun, htogether⟩

theorem Ending.cachesTrue {i : Instr} {s : State} {p : State × Response} (h : Ending i s p)
    (hs : s.CachesTrue) : p.1.CachesTrue := by
  cases h with
  | moved t r hm => exact hm.cachesTrue hs
  | fatal c => exact hs
  | setDp k _ hk => exact setDpBody_cachesTrue k s hk hs
  | resetDp => exact resetDpBody_cachesTrue s hs

theorem FrameEnding.cachesTrue {s t : State} (h : FrameEnding s t) (hs : s.CachesTrue) :
    t.CachesTrue := by
  cases h with
  | moved _ hm => exact hm.cachesTrue hs
  | irScanned c =>
    refine hs.of_trace rfl rfl fun ha => ?_
    rw [Observer.watch_irEvents _ _ _ ha.ir]
    exact ha.see_irScan _
  | abortScanned tdi _ =>
    exact hs.of_trace rfl rfl fun ha => ha.watch_jtagEvents s.cfg .abort _ 1 Nat.one_pos fun w hw =>
      w.see_drScan35 .abort tdi _ hw nofun
  | captured => exact hs

/-- Settles O55: each move that writes SELECT or scans the IR is followed by the cache of what it sent, no
other tells the observer anything, and `set_dp` and `reset_dp` only forget. -/
theorem stepKeepsCachesTrue : Obligations.StepKeepsCachesTrue := fun _ _ hs h =>
  step_keeps (P := State.CachesTrue) (fun _ _ hs => hs) (fun _ _ hs => hs)
    (fun _ _ _ he => he.cachesTrue) (fun _ _ he => he.cachesTrue) h hs

end Sys2Proof.Machine

/-! Two runs that differ only in captured bits (R41): what they may differ in, and that no instruction
makes more of it. -/

namespace Sys2Proof.Machine

/-! ### What captured bits decide -/

/-- A response without what captured bits decide: its data and its compare outcome. -/
def Response.blind (r : Response) : Response := ⟨r.status, r.data.map fun _ => 0#32, true⟩

/-- The status of a composition depends on the statuses of its parts alone (R139, R250). -/
theorem composeResponse_blind (w r : Response) :
    (composeResponse w r).blind = composeResponse w.blind r.blind := rfl

/-- Of a read that completed, only that it completed is no captured bit. -/
theorem okRead_blind (d : Word32) (m : Bool) : (okRead d m).blind = okRead 0#32 true := rfl

theorem memReadAt_blind (a : Word32) (w : Width) (o : ReadOpts) (f : Bool) (i : Nat) (ap : ApConfig)
    (s : State) : (memReadAt a w o f i ap s).2.blind = okRead 0#32 true :=
  okRead_blind _ _

theorem readApBody_some_blind (a : Word32) (o : ReadOpts) (s : State) :
    (readApBody (some a) o s).2.blind = okRead 0#32 true :=
  okRead_blind _ _

theorem State.blind_eq_iff {s t : State} : s.blind = t.blind ↔
    s.Alike t ∧ s.responses.map Response.blind = t.responses.map Response.blind := by
  constructor
  · intro h
    simp only [State.blind, State.mk.injEq, true_and, and_true] at h
    obtain ⟨hcfg, hpc, hactive, hjtag, hswd, hmem, hfatal, htrace, hresponses, hport⟩ := h
    exact ⟨⟨hcfg.symm, hpc.symm, hactive.symm, hjtag.symm, hswd.symm, hmem.symm, hfatal.symm,
      htrace.symm, hport.symm⟩, hresponses⟩
  · rintro ⟨h, hresponses⟩
    simp only [State.blind, State.mk.injEq, true_and, and_true]
    exact ⟨h.cfg.symm, h.pc.symm, h.active.symm, h.dpJtag.symm, h.dpSwd.symm, h.mem.symm,
      h.fatal.symm, h.trace.symm, hresponses, h.port.symm⟩

/-- Two steps that differ, if at all, in what captured bits decide. -/
inductive SameOutcome : Host.Outcome State Fault Refusal → Host.Outcome State Fault Refusal → Prop where
  | next {s t : State} : s.blind = t.blind → SameOutcome (.next s) (.next t)
  | refused (e : Refusal) : SameOutcome (.refused e) (.refused e)

theorem SameOutcome.of_next {s : State} {o : Host.Outcome State Fault Refusal}
    (h : SameOutcome (.next s) o) : ∃ t, o = .next t ∧ s.blind = t.blind := by
  cases h with
  | next hblind => exact ⟨_, rfl, hblind⟩

theorem SameOutcome.of_refused {e : Refusal} {o : Host.Outcome State Fault Refusal}
    (h : SameOutcome (.refused e) o) : o = .refused e := by
  cases h with
  | refused => rfl

/-- Two ends of a command, each before its response is delivered, that differ only so. -/
structure SameEnd (p q : State × Response) : Prop where
  state : p.1.Alike q.1
  response : p.2.blind = q.2.blind

/-! ### The commands -/

/-- An admitted attempt count is positive (R292, R296). -/
theorem pos_of_admitted {n : Nat} (h : 0 ∉ [n]) : 0 < n :=
  Nat.pos_of_ne_zero fun hn => h (List.mem_singleton.mpr hn.symm)

section

variable {s t : State} (h : s.Alike t)

include h

theorem State.Alike.checkAdmission (counts : List Nat) (body : State → State × Response)
    (hbody : s.fatal = none → 0 ∉ counts → SameEnd (body s) (body t)) :
    SameEnd (checkAdmission counts body s) (checkAdmission counts body t) := by
  by_cases hf : s.fatal = none
  · have hf' : t.fatal = none := h.fatal.trans hf
    by_cases hc : 0 ∈ counts
    · rw [checkAdmission_badOption _ _ _ hf hc, checkAdmission_badOption _ _ _ hf' hc]
      exact ⟨h.withFatal _, rfl⟩
    · rw [checkAdmission_run _ _ _ hf hc, checkAdmission_run _ _ _ hf' hc]
      exact hbody hf hc
  · rw [checkAdmission_refused _ _ _ hf, checkAdmission_refused _ _ _ (h.fatal ▸ hf)]
    exact ⟨h, rfl⟩

theorem State.Alike.withAddr (a : Option Word32) (body : Word32 → State → State × Response)
    (hbody : ∀ x, SameEnd (body x s) (body x t)) : SameEnd (withAddr a body s) (withAddr a body t) := by
  cases a with
  | none => exact ⟨h.withFatal _, rfl⟩
  | some x => exact hbody x

theorem State.Alike.withMemAp (r : ApRef) (body : Nat → ApConfig → State → State × Response)
    (hbody : ∀ i ap, SameEnd (body i ap s) (body i ap t)) :
    SameEnd (withMemAp r body s) (withMemAp r body t) := by
  simp only [Machine.withMemAp, h.cfg]
  split
  · exact ⟨h.withFatal _, rfl⟩
  · exact hbody _ _

theorem State.Alike.readDpPart (r : DpRef) (o : ReadOpts) :
    SameEnd (readDpPart r o s) (readDpPart r o t) := by
  refine h.checkAdmission _ _ fun _ hn => ?_
  simp only [readDpBody, h.active]
  split
  · exact ⟨h, rfl⟩
  · split
    · exact ⟨h.dpRead _ _ _ (pos_of_admitted hn), rfl⟩
    · exact ⟨h, rfl⟩

theorem State.Alike.writeDpPart (r : DpRef) (v : Word32) (o : WriteOpts) :
    SameEnd (writeDpPart r v o s) (writeDpPart r v o t) := by
  refine h.checkAdmission _ _ fun _ hn => ?_
  simp only [writeDpBody, h.active]
  split
  · exact ⟨h, rfl⟩
  · split
    · exact ⟨h.dpWrite _ _ _ (pos_of_admitted hn), rfl⟩
    · exact ⟨h, rfl⟩

theorem State.Alike.writeReadDpBody (r : DpRef) (v : Word32) (o : WROpts) :
    SameEnd (writeReadDpBody r v o s) (writeReadDpBody r v o t) := by
  have hw := h.writeDpPart r v { attempts := o.wAttempts }
  have hr := hw.state.readDpPart r
    { attempts := o.rAttempts, exp := some (o.exp.getD v), mask := o.mask }
  refine ⟨hr.state, ?_⟩
  simp only [Machine.writeReadDpBody, composeResponse_blind, hw.response, hr.response]

theorem State.Alike.readApBody (a : Option Word32) (o : ReadOpts) (hn : 0 < o.attempts) :
    SameEnd (readApBody a o s) (readApBody a o t) := by
  cases a with
  | none => exact ⟨h.withFatal _, rfl⟩
  | some a =>
    have hread := h.readApCore a o.attempts (readCmp o) hn
    exact ⟨hread.rawCoherence a none, by simp only [readApBody_some_blind]⟩

theorem State.Alike.writeApBody (a : Option Word32) (v : Word32) (o : WriteOpts)
    (hn : 0 < o.attempts) : SameEnd (writeApBody a v o s) (writeApBody a v o t) := by
  cases a with
  | none => exact ⟨h.withFatal _, rfl⟩
  | some a =>
    have hwrite := h.writeApCore a v o.attempts hn
    exact ⟨hwrite.rawCoherence a (some v), rfl⟩

theorem State.Alike.setApSelectBody (a : Option Word32) :
    SameEnd (setApSelectBody a s) (setApSelectBody a t) := by
  cases a with
  | none => exact ⟨h.withFatal _, rfl⟩
  | some a => exact ⟨h.selectForAp a, rfl⟩

theorem State.Alike.memWritePart (hs : s.cfg.cswSeedSource = .resetValue) (r : ApRef)
    (a : Option Word32) (v : Word32) (w : Nat) (o : WriteOpts) (f : Bool) :
    SameEnd (memWritePart r a v w o f s) (memWritePart r a v w o f t) := by
  refine h.checkAdmission _ _ fun _ hn => h.withAddr a _ fun a => h.withMemAp r _ fun i ap => ?_
  exact ⟨h.memWriteAt hs a v _ _ f i ap (pos_of_admitted hn), rfl⟩

theorem State.Alike.memReadPart (hs : s.cfg.cswSeedSource = .resetValue) (r : ApRef)
    (a : Option Word32) (w : Nat) (o : ReadOpts) (f : Bool) :
    SameEnd (memReadPart r a w o f s) (memReadPart r a w o f t) := by
  refine h.checkAdmission _ _ fun _ hn => h.withAddr a _ fun a => h.withMemAp r _ fun i ap => ?_
  exact ⟨h.memReadAt hs a _ o f i ap (pos_of_admitted hn), by simp only [memReadAt_blind]⟩

theorem State.Alike.memWriteReadBody (hs : s.cfg.cswSeedSource = .resetValue) (r : ApRef)
    (a : Option Word32) (v : Word32) (w : Nat) (o : WROpts) (f : Bool) :
    SameEnd (memWriteReadBody r a v w o f s) (memWriteReadBody r a v w o f t) := by
  have hcfg : (Machine.memWritePart r a v w { attempts := o.wAttempts } f s).1.cfg = s.cfg :=
    (exec_framed (.memWrite r a v w { attempts := o.wAttempts } f) rfl).1
  have hw := h.memWritePart hs r a v w { attempts := o.wAttempts } f
  have hr := hw.state.memReadPart (hcfg ▸ hs) r a w
    { attempts := o.rAttempts, exp := some (o.exp.getD (v &&& o.mask)), mask := o.mask } f
  refine ⟨hr.state, ?_⟩
  simp only [Machine.memWriteReadBody, composeResponse_blind, hw.response, hr.response]

theorem State.Alike.setDpBody (k : Transport) : SameEnd (setDpBody k s) (setDpBody k t) := by
  by_cases hk : s.cfg.has k = true
  · refine ⟨?_, by simp [Machine.setDpBody, hk, h.cfg]⟩
    rw [setDpBody_eq k s hk, setDpBody_eq k t (h.cfg ▸ hk)]
    cases k with
    | jtag => exact ⟨h.cfg, h.pc, rfl, by simp [h.dpJtag], h.dpSwd, h.mem, h.fatal, h.trace, h.port⟩
    | swd => exact ⟨h.cfg, h.pc, rfl, h.dpJtag, by simp [h.dpSwd], h.mem, h.fatal, h.trace, h.port⟩
  · simp only [Machine.setDpBody, hk, h.cfg]
    exact ⟨h.withFatal _, rfl⟩

theorem State.Alike.resetDpBody : SameEnd (resetDpBody s) (resetDpBody t) := by
  refine ⟨?_, rfl⟩
  rw [resetDpBody_eq, resetDpBody_eq, h.active]
  split
  · exact ⟨h.cfg, h.pc, rfl, by simp [h.cfg], h.dpSwd, h.mem, h.fatal, h.trace, h.port⟩
  · exact ⟨h.cfg, h.pc, rfl, h.dpJtag, by simp [h.cfg, h.dpSwd], h.mem, h.fatal, h.trace, h.port⟩

/-- Every command ends alike from alike states (R41), the CSW cache seeded from `csw_reset`. -/
theorem State.Alike.command (hs : s.cfg.cswSeedSource = .resetValue) (i : Instr)
    (hi : i.isCommand = true) :
    ∃ body, (∀ u, exec i u = command body u) ∧ SameEnd (body s) (body t) := by
  cases i with
  | readDp r o => exact ⟨_, fun _ => rfl, h.readDpPart r o⟩
  | writeDp r v o => exact ⟨_, fun _ => rfl, h.writeDpPart r v o⟩
  | writeReadDp r v o =>
    exact ⟨_, fun _ => rfl, h.checkAdmission _ _ fun _ _ => h.writeReadDpBody r v o⟩
  | readAp a o =>
    exact ⟨_, fun _ => rfl, h.checkAdmission _ _ fun _ hn => h.readApBody a o (pos_of_admitted hn)⟩
  | writeAp a v o =>
    exact ⟨_, fun _ => rfl, h.checkAdmission _ _ fun _ hn => h.writeApBody a v o (pos_of_admitted hn)⟩
  | setApSelect a =>
    exact ⟨_, fun _ => rfl, h.checkAdmission _ _ fun _ _ => h.setApSelectBody a⟩
  | memSetSize r w =>
    exact ⟨_, fun _ => rfl, h.checkAdmission _ _ fun _ _ => h.withMemAp r _ fun i ap =>
      ⟨h.setSize hs i ap _, rfl⟩⟩
  | memSetAddr r a f =>
    exact ⟨_, fun _ => rfl, h.checkAdmission _ _ fun _ _ => h.withAddr a _ fun a =>
      h.withMemAp r _ fun i ap => ⟨h.setAddr i ap a f, rfl⟩⟩
  | memRead r a w o f => exact ⟨_, fun _ => rfl, h.memReadPart hs r a w o f⟩
  | memWrite r a v w o f => exact ⟨_, fun _ => rfl, h.memWritePart hs r a v w o f⟩
  | memWriteRead r a v w o f =>
    exact ⟨_, fun _ => rfl, h.checkAdmission _ _ fun _ _ => h.memWriteReadBody hs r a v w o f⟩
  | setDp k => exact ⟨_, fun _ => rfl, h.checkAdmission _ _ fun _ _ => h.setDpBody k⟩
  | resetDp => exact ⟨_, fun _ => rfl, h.checkAdmission _ _ fun _ _ => h.resetDpBody⟩
  | _ => cases hi

/-! ### The wire frames -/

theorem State.Alike.dr35Frame (d : Word32) (a : BitVec 2) (r : Bool) :
    (dr35Frame d a r s).Alike (dr35Frame d a r t) := by
  have haccess := fun c x => h.jtagAccess c a r x 1 (noCmp 32) Nat.one_pos
  simp only [Machine.dr35Frame, h.dpJtag]
  split
  · split
    · exact haccess _ _
    · exact (haccess _ _).dpWriteCoherence _ _
  · exact (haccess _ _).apFrameCoherence _ _
  · exact haccess _ _

theorem State.Alike.captureFrame (d : Word32) (k : Word3) :
    (captureFrame d k s).Alike (captureFrame d k t) :=
  ⟨h.cfg, h.pc, h.active, h.dpJtag, h.dpSwd, h.mem, h.fatal, h.trace, h.port⟩

theorem State.Alike.swdDpFrame (r : Bool) (a : BitVec 2) (v : Word32) :
    (swdDpFrame r a v s).Alike (swdDpFrame r a v t) := by
  have hpacket := h.swdAccess false r a v 1 (noCmp 32) Nat.one_pos
  cases r with
  | false => exact hpacket.dpWriteCoherence a v
  | true => exact hpacket

theorem State.Alike.swdApFrame (r : Bool) (a : BitVec 2) (v : Word32) :
    (swdApFrame r a v s).Alike (swdApFrame r a v t) :=
  (h.swdAccess true r a v 1 (noCmp 32) Nat.one_pos).apFrameCoherence a _

end

/-! ### Steps from states that differ in captured bits only -/

section

variable {s t : State} (h : s.blind = t.blind)

include h

theorem wireFrame_blind (k : Transport) (body : State → State) (hkept : ∀ u : State, u.Kept (body u))
    (hbody : (body s).Alike (body t)) : SameOutcome (wireFrame k body s) (wireFrame k body t) := by
  obtain ⟨ha, hresponses⟩ := State.blind_eq_iff.mp h
  unfold wireFrame
  rw [ha.fatal, ha.active]
  split
  · exact .next h
  · split
    · refine .next (State.blind_eq_iff.mpr ⟨hbody, ?_⟩)
      rw [(hkept s).responses, (hkept t).responses, hresponses]
    · exact .refused _

theorem frame_blind (i : Instr) (hi : ¬i.isCommand = true) : SameOutcome (exec i s) (exec i t) := by
  have ha := (State.blind_eq_iff.mp h).1
  rcases frame_cases i hi with ⟨c, rfl⟩ | ⟨d, a, r, rfl⟩ | ⟨d, k, rfl⟩ | rfl | ⟨p, a, rfl⟩ |
    ⟨p, a, v, rfl⟩
  · rw [exec_irInstr, exec_irInstr]
    exact wireFrame_blind h _ _ (irFrame_kept c) (ha.jtagSetIr c)
  · exact wireFrame_blind h _ _ (dr35Frame_kept d a r) (ha.dr35Frame d a r)
  · exact wireFrame_blind h _ _ (captureFrame_kept d k) (ha.captureFrame d k)
  · exact wireFrame_blind h _ _ dr32Frame_kept (ha.jtagIdcode 1 (noCmp 32) Nat.one_pos)
  · rw [exec_swdReadInstr, exec_swdReadInstr]
    cases p with
    | false => exact wireFrame_blind h _ _ (swdDpFrame_kept true a _) (ha.swdDpFrame true a _)
    | true => exact wireFrame_blind h _ _ (swdApFrame_kept true a _) (ha.swdApFrame true a _)
  · rw [exec_swdWriteInstr, exec_swdWriteInstr]
    cases p with
    | false => exact wireFrame_blind h _ _ (swdDpFrame_kept false a v) (ha.swdDpFrame false a v)
    | true => exact wireFrame_blind h _ _ (swdApFrame_kept false a v) (ha.swdApFrame false a v)

omit h in
/-- A command leaves the responses delivered before it. -/
theorem command_responses (i : Instr) (hi : i.isCommand = true) {body : State → State × Response}
    (u : State) (hb : exec i u = command body u) : (body u).1.responses = u.responses := by
  obtain ⟨p, hp, he⟩ := command_inv i hi hb
  have hdelivered : (body u).1.responses ++ [(body u).2] = p.1.responses ++ [p.2] :=
    congrArg State.responses hp
  exact (List.append_inj_left' hdelivered rfl).trans he.framed.1.responses

theorem command_blind (hs : s.cfg.cswSeedSource = .resetValue) (i : Instr) (hi : i.isCommand = true) :
    SameOutcome (exec i s) (exec i t) := by
  obtain ⟨ha, hresponses⟩ := State.blind_eq_iff.mp h
  obtain ⟨body, hb, hsame⟩ := ha.command hs i hi
  have hstate := hsame.state
  rw [hb s, hb t, command_eq, command_eq]
  refine .next (State.blind_eq_iff.mpr ⟨⟨hstate.cfg, congrArg (· + 1) hstate.pc, hstate.active,
    hstate.dpJtag, hstate.dpSwd, hstate.mem, hstate.fatal, hstate.trace, hstate.port⟩, ?_⟩)
  simp only [State.answered_responses, List.map_append, List.map_cons, List.map_nil,
    command_responses i hi s (hb s), command_responses i hi t (hb t), hresponses, hsame.response]

theorem exec_blind (hs : s.cfg.cswSeedSource = .resetValue) (i : Instr) :
    SameOutcome (exec i s) (exec i t) := by
  by_cases hi : i.isCommand = true
  · exact command_blind h hs i hi
  · exact frame_blind h i hi

theorem State.withPort_blind (ps : List PortItem) :
    ({ s with port := ps } : State).blind = ({ t with port := ps } : State).blind :=
  congrArg (fun u : State => { u with port := ps }) h

theorem step_blind (hs : s.cfg.cswSeedSource = .resetValue) : SameOutcome (step s) (step t) := by
  have hport : t.port = s.port := (State.blind_eq_iff.mp h).1.port
  unfold step takeItem
  rw [hport]
  cases s.port with
  | nil => exact .next h
  | cons p ps =>
    dsimp only
    cases decode p with
    | error e => exact .refused _
    | ok i => exact exec_blind (State.withPort_blind h ps) hs i

end

/-- Settles O56: the operations read nothing that `blind` forgets, and what they add to the responses
differs in the data and compare outcomes only. -/
theorem capturesSteerNothing : Obligations.CapturesSteerNothing := by
  intro s s' h hs
  have hsame := step_blind h hs
  refine ⟨fun t ht => ?_, fun e he => ?_⟩
  · rw [ht] at hsame
    exact hsame.of_next
  · rw [he] at hsame
    exact hsame.of_refused

end Sys2Proof.Machine

/-! Which entry of `APS` an address or an operand names (R63, R240, R282). -/

namespace Sys2Proof.Machine

/-! ### The first entry of a list that satisfies a test -/

section

variable {α : Type} (p : α → Bool)

/-- The index a search starts from is added to the index found, and changes nothing else. -/
theorem findFrom_succ (l : List α) (k : Nat) :
    findFrom p (k + 1) l = (findFrom p k l).map (Prod.map (· + 1) id) := by
  induction l generalizing k with
  | nil => rfl
  | cons a l ih =>
    by_cases ha : p a = true
    · simp [findFrom, ha]
    · simp [findFrom, ha, ih]

theorem findFrom_zero_cons (a : α) (l : List α) :
    findFrom p 0 (a :: l) =
      if p a then some (0, a) else (findFrom p 0 l).map (Prod.map (· + 1) id) := by
  rw [findFrom, findFrom_succ]

theorem findFrom_zero_eq_some_iff (l : List α) (i : Nat) (x : α) :
    findFrom p 0 l = some (i, x) ↔
      l[i]? = some x ∧ p x = true ∧ ∀ j < i, ∀ y, l[j]? = some y → ¬p y = true := by
  induction l generalizing i with
  | nil => simp [findFrom]
  | cons a l ih =>
    rw [findFrom_zero_cons]
    by_cases ha : p a = true
    · rw [if_pos ha, Option.some.injEq, Prod.mk.injEq]
      cases i with
      | zero =>
        simp only [true_and, List.getElem?_cons_zero, Option.some.injEq]
        exact ⟨fun hx => ⟨hx, hx ▸ ha, fun j hj => absurd hj j.not_lt_zero⟩, And.left⟩
      | succ i => exact ⟨nofun, fun ⟨_, _, hfirst⟩ => absurd ha (hfirst 0 i.succ_pos a rfl)⟩
    · rw [if_neg ha]
      cases i with
      | zero =>
        simp only [Option.map_eq_some_iff, List.getElem?_cons_zero, Option.some.injEq]
        exact ⟨nofun, fun ⟨hx, hp, _⟩ => absurd (hx ▸ hp) ha⟩
      | succ i =>
        have hshift : (findFrom p 0 l).map (Prod.map (· + 1) id) = some (i + 1, x) ↔
            findFrom p 0 l = some (i, x) := by
          simp [Option.map_eq_some_iff, Prod.ext_iff]
        rw [hshift, ih, Nat.forall_lt_succ_left']
        simp [ha]

theorem findFrom_eq_none_iff (l : List α) (k : Nat) :
    findFrom p k l = none ↔ ∀ x ∈ l, ¬p x = true := by
  induction l generalizing k with
  | nil => simp [findFrom]
  | cons a l ih =>
    rw [List.forall_mem_cons, findFrom]
    by_cases ha : p a = true
    · simp [ha]
    · simp [ha, ih]

end

/-! ### The entry found -/

/-- R63, R282: of the windows that hold an address the first wins. -/
theorem ownerOf_eq_some_iff (cfg : Params) (a : Word32) (i : Nat) (ap : ApConfig) :
    ownerOf cfg a = some (i, ap) ↔
      cfg.aps[i]? = some ap ∧ ap.base.extractLsb' 8 24 = a.extractLsb' 8 24 ∧
      ∀ j < i, ∀ ap', cfg.aps[j]? = some ap' → ap'.base.extractLsb' 8 24 ≠ a.extractLsb' 8 24 := by
  simp only [ownerOf, findFrom_zero_eq_some_iff, beq_iff_eq, ne_eq]

theorem ownerOf_eq_none_iff (cfg : Params) (a : Word32) :
    ownerOf cfg a = none ↔ ∀ ap ∈ cfg.aps, ap.base.extractLsb' 8 24 ≠ a.extractLsb' 8 24 := by
  simp only [ownerOf, findFrom_eq_none_iff, beq_iff_eq, ne_eq]

theorem findAp_index_eq_some_iff (cfg : Params) (j i : Nat) (ap : ApConfig) :
    findAp cfg (.index j) = some (i, ap) ↔ i = j ∧ cfg.aps[j]? = some ap := by
  simp only [findAp, Option.map_eq_some_iff, Prod.mk.injEq]
  constructor
  · rintro ⟨_, hap, rfl, rfl⟩
    exact ⟨rfl, hap⟩
  · rintro ⟨rfl, hap⟩
    exact ⟨ap, hap, rfl, rfl⟩

/-- R282: of the entries of one name the first wins. -/
theorem findAp_name_eq_some_iff (cfg : Params) (n : Token) (i : Nat) (ap : ApConfig) :
    findAp cfg (.name n) = some (i, ap) ↔
      cfg.aps[i]? = some ap ∧ ap.name = n ∧
      ∀ j < i, ∀ ap', cfg.aps[j]? = some ap' → ap'.name ≠ n := by
  simp only [findAp, findFrom_zero_eq_some_iff, beq_iff_eq, ne_eq]

/-- R240: a MEM-AP command finds the entry that its operand names, where that entry is a MemAP. -/
theorem memApOf_eq_some_iff (cfg : Params) (r : ApRef) (i : Nat) (ap : ApConfig) :
    memApOf cfg r = some (i, ap) ↔ findAp cfg r = some (i, ap) ∧ ap.cls = .memAp := by
  unfold memApOf
  cases findAp cfg r with
  | none => simp
  | some found =>
    obtain ⟨j, ap'⟩ := found
    by_cases hcls : ap'.cls = .memAp
    · simp only [hcls, if_true, Option.some.injEq, Prod.mk.injEq]
      exact ⟨fun h => ⟨h, h.2 ▸ hcls⟩, And.left⟩
    · simp only [hcls, if_false, Option.some.injEq, Prod.mk.injEq]
      exact ⟨nofun, fun ⟨⟨_, hap⟩, hmem⟩ => absurd (hap ▸ hmem) hcls⟩

/-- Settles O12: an owner and an entry by name are what `findFrom` finds from index 0, the first entry
that satisfies its test; an index is looked up, and the class is asked of the entry found. -/
theorem ownerIsFirstWindow : Obligations.OwnerIsFirstWindow := fun cfg =>
  ⟨ownerOf_eq_some_iff cfg, ownerOf_eq_none_iff cfg, findAp_index_eq_some_iff cfg,
    findAp_name_eq_some_iff cfg, memApOf_eq_some_iff cfg⟩

end Sys2Proof.Machine

/-! The values on the wire: the request byte, the 35-bit shift-in value and capture, the parities and the
widened compare (R12, R82 to R85, R90, R91). -/

namespace Sys2Proof.Machine

/-! ### The 35-bit shift-in value and capture -/

/-- R82: the shift-in value is its three fields side by side. -/
theorem drValue_eq_append (data : Word32) (a : BitVec 2) (rnw : Bool) :
    drValue data a rnw = data ++ a ++ BitVec.ofBool rnw := by
  have h := BitVec.setWidth_append_append_eq_shiftLeft_setWidth_or (w''' := 35)
    (b := data) (b' := a) (b'' := BitVec.ofBool rnw)
  rw [BitVec.setWidth_eq] at h
  exact h.symm

theorem drValue_addr2 (data : Word32) (a : BitVec 2) (rnw : Bool) :
    (drValue data a rnw).extractLsb' 1 2 = a := by
  rw [drValue_eq_append, BitVec.extractLsb'_append_eq_of_le (Nat.le_refl 1)]
  exact BitVec.extractLsb'_append_eq_right

theorem drValue_rnw (data : Word32) (a : BitVec 2) (rnw : Bool) :
    (drValue data a rnw).getLsbD 0 = rnw := by
  rw [drValue_eq_append, BitVec.append_ofBool, BitVec.getLsbD_concat_zero]

/-- Settles O8: the shift-in value is the concatenation of its fields. -/
theorem shiftInFields : Obligations.ShiftInFields := fun data a rnw =>
  ⟨drValue_data data a rnw, drValue_addr2 data a rnw, drValue_rnw data a rnw,
    drValue_eq_append data a rnw⟩

theorem captureData_append (data : Word32) (ack : Word3) : captureData (data ++ ack) = data :=
  BitVec.extractLsb'_append_eq_left

theorem captureAck_append (data : Word32) (ack : Word3) : captureAck (data ++ ack) = ack :=
  BitVec.extractLsb'_append_eq_right

/-- R84: a capture is its data and its acknowledge side by side. -/
theorem captureData_append_captureAck (c : Word35) : captureData c ++ captureAck c = c := by
  have h : captureData c ++ captureAck c = c.extractLsb' 0 35 :=
    BitVec.extractLsb'_append_extractLsb'_eq_extractLsb' rfl
  rw [h, BitVec.extractLsb'_eq_self]

/-! ### The request byte -/

/-- R85, bit by bit. -/
theorem swdRequest_bits (apndp rnw : Bool) (a : BitVec 2) :
    (swdRequest apndp rnw a).getLsbD 0 = true ∧
    (swdRequest apndp rnw a).getLsbD 1 = apndp ∧
    (swdRequest apndp rnw a).getLsbD 2 = rnw ∧
    (swdRequest apndp rnw a).getLsbD 3 = a.getLsbD 0 ∧
    (swdRequest apndp rnw a).getLsbD 4 = a.getLsbD 1 ∧
    (swdRequest apndp rnw a).getLsbD 5 = requestParity apndp rnw a ∧
    (swdRequest apndp rnw a).getLsbD 6 = false ∧
    (swdRequest apndp rnw a).getLsbD 7 = true := by
  revert apndp rnw a
  decide

/-- R85: a read frame is stored as its request byte alone. -/
theorem encode_swdReadInstr (apndp : Bool) (a : BitVec 2) :
    encode (swdReadInstr apndp a) = ⟨.swdRequest8, [swdRequest apndp true a]⟩ := by
  revert apndp a
  decide

/-- R85, R88: a write frame is stored as its request byte and its data. -/
theorem encode_swdWriteInstr (apndp : Bool) (a : BitVec 2) (v : Word32) :
    encode (swdWriteInstr apndp a v) =
      ⟨.swdRequest8, swdRequest apndp false a :: valBytes 4 v.toNat⟩ := by
  rcases subAddress_cases a with rfl | rfl | rfl | rfl <;> cases apndp <;> rfl

/-- Settles O7: the bits of the request byte by cases on its operands, of which there are 16. -/
theorem requestByteBits : Obligations.RequestByteBits := by
  intro apndp rnw a v
  obtain ⟨hstart, hap, hrnw, ha2, ha3, hparity, hstop, hpark⟩ := swdRequest_bits apndp rnw a
  exact ⟨hstart, hap, hrnw, ha2, ha3, hparity, hstop, hpark,
    congrArg PortItem.bytes (encode_swdReadInstr apndp a),
    congrArg (fun p => p.bytes.head?) (encode_swdWriteInstr apndp a v)⟩

/-! ### Parities -/

/-- The parity bit of the lowest `k` bits is the number of ones among them, modulo 2. -/
theorem toNat_xorBits {n : Nat} (v : BitVec n) (k : Nat) :
    (xorBits v k).toNat = ((List.range k).countP fun i => v.getLsbD i) % 2 := by
  induction k with
  | zero => rfl
  | succ k ih =>
    rw [List.range_succ, List.countP_append, List.countP_singleton, xorBits, Nat.add_mod, ← ih]
    cases xorBits v k <;> cases v.getLsbD k <;> rfl

/-- R90: the ones of a value with its data parity bit are even in number. -/
theorem xorFold_even {n : Nat} (v : BitVec n) :
    (((List.range n).countP fun i => v.getLsbD i) + (xorFold v).toNat) % 2 = 0 := by
  have hbit : (xorFold v).toNat = ((List.range n).countP fun i => v.getLsbD i) % 2 := by
    rw [xorFold, BitVec.toNat_ofBool, toNat_xorBits]
  omega

theorem request_even (apndp rnw : Bool) (a : BitVec 2) :
    ((List.range 5).countP fun i => (swdRequest apndp rnw a).getLsbD (i + 1)) % 2 = 0 := by
  revert apndp rnw a
  decide

/-- Settles O9: `xorFold` is the number of ones modulo 2, and a write packet ends in data, parity and
park. -/
theorem paritiesEven : Obligations.ParitiesEven := by
  refine ⟨request_even, xorFold_even, fun apndp a v cmp s => ?_⟩
  refine ⟨[.swdSend8 (swdRequest apndp false a), .swdTrn, .swdGet3 (noCmp 3), .swdTrn],
    [.swdPark s.cfg.swdParkCycles], ?_⟩
  simp [swdPacket_write, writePacket]

/-! ### The widened compare -/

/-- R12. -/
theorem matchCmp_iff {n : Nat} (c : BitVec n) (d : Cmp n) :
    matchCmp c d = true ↔ (c ^^^ d.exp) &&& d.mask = 0#n :=
  beq_iff_eq

/-- A compare of two fields side by side compares each. -/
theorem matchCmp_append {m n : Nat} (x e u : BitVec m) (y f w : BitVec n) :
    matchCmp (x ++ y) ⟨e ++ f, u ++ w⟩ = (matchCmp x ⟨e, u⟩ && matchCmp y ⟨f, w⟩) := by
  have hzero (p : BitVec m) (q : BitVec n) : p ++ q = 0#(m + n) ↔ p = 0#m ∧ q = 0#n := by
    rw [← BitVec.zero_append_zero]
    constructor
    · intro h
      exact ⟨by simpa only [BitVec.extractLsb'_append_eq_left] using congrArg (BitVec.extractLsb' n m) h,
        by simpa only [BitVec.extractLsb'_append_eq_right] using congrArg (BitVec.extractLsb' 0 n) h⟩
    · rintro ⟨rfl, rfl⟩
      rfl
  rw [Bool.eq_iff_iff, Bool.and_eq_true, matchCmp_iff, matchCmp_iff, matchCmp_iff,
    BitVec.xor_append, BitVec.and_append, hzero]

/-- A mask of ones compares all bits, a mask of zeros none. -/
theorem matchCmp_ones (y f : Word3) : matchCmp y ⟨f, 0b111#3⟩ = (y == f) := by
  revert y f
  decide

theorem matchCmp_zeros (y f : Word3) : matchCmp y ⟨f, 0#3⟩ = true := by
  simp [matchCmp]

/-- R91: a 32-bit value shifted over the acknowledge, with 3 low bits set. -/
theorem shiftLeft_or_eq_append (x : Word32) (y : Word3) :
    x.setWidth 35 <<< 3 ||| y.setWidth 35 = x ++ y := by
  have h := BitVec.setWidth_append_eq_shiftLeft_setWidth_or (w'' := 35) (b := x) (b' := y)
  rw [BitVec.setWidth_eq] at h
  exact h.symm

theorem shiftLeft_eq_append (x : Word32) : x.setWidth 35 <<< 3 = x ++ 0#3 := by
  rw [← shiftLeft_or_eq_append]
  exact BitVec.or_zero.symm

/-- R91, R189: without the acknowledge check the descriptor is shifted over the acknowledge. -/
theorem widenCmp_zero {cfg : Params} (h : cfg.readAckWidth = .zero) (cmp : Cmp 32) :
    widenCmp cfg cmp = ⟨cmp.exp.setWidth 35 <<< 3, cmp.mask.setWidth 35 <<< 3⟩ := by
  simp only [widenCmp, h]

/-- R91, R190: with it, a descriptor that is not `NoCmp` also expects the acknowledge. -/
theorem widenCmp_three {cfg : Params} (h : cfg.readAckWidth = .three) {cmp : Cmp 32}
    (hc : cmp ≠ noCmp 32) :
    widenCmp cfg cmp = ⟨cmp.exp.setWidth 35 <<< 3 ||| cfg.jtagAckExpected.setWidth 35,
      cmp.mask.setWidth 35 <<< 3 ||| 0b111#35⟩ := by
  simp only [widenCmp, h, hc, if_false]

theorem matchCmp_widenCmp_zero {cfg : Params} (h : cfg.readAckWidth = .zero) (cmp : Cmp 32)
    (c : Word35) : matchCmp c (widenCmp cfg cmp) = matchCmp (captureData c) cmp := by
  have hsplit := matchCmp_append (captureData c) cmp.exp cmp.mask (captureAck c) 0#3 0#3
  rw [captureData_append_captureAck, matchCmp_zeros, Bool.and_true] at hsplit
  rw [widenCmp_zero h, shiftLeft_eq_append, shiftLeft_eq_append]
  exact hsplit

theorem matchCmp_widenCmp_three {cfg : Params} (h : cfg.readAckWidth = .three) {cmp : Cmp 32}
    (hc : cmp ≠ noCmp 32) (c : Word35) :
    matchCmp c (widenCmp cfg cmp) =
      (matchCmp (captureData c) cmp && captureAck c == cfg.jtagAckExpected) := by
  have hsplit := matchCmp_append (captureData c) cmp.exp cmp.mask (captureAck c) cfg.jtagAckExpected
    0b111#3
  rw [captureData_append_captureAck, matchCmp_ones] at hsplit
  have hmask : cmp.mask.setWidth 35 <<< 3 ||| 0b111#35 = cmp.mask ++ 0b111#3 :=
    shiftLeft_or_eq_append cmp.mask 0b111#3
  rw [widenCmp_three h hc, shiftLeft_or_eq_append, hmask]
  exact hsplit

/-- Settles O10: a capture and a widened descriptor are data and acknowledge side by side, and a compare
of two fields side by side compares each. -/
theorem widenedCompare : Obligations.WidenedCompare :=
  ⟨fun _ => matchCmp_iff, fun cfg cmp c =>
    ⟨fun h => ⟨widenCmp_zero h cmp, matchCmp_widenCmp_zero h cmp c⟩,
      fun h hc => ⟨widenCmp_three h hc, matchCmp_widenCmp_three h hc c⟩, widenCmp_noCmp cfg⟩⟩

end Sys2Proof.Machine

/-! The wire frames as instructions, each as the state it answers (R81 to R85, R169, R181, R187, R188,
R219; log entries 7 to 12, 24 and 26). -/

namespace Sys2Proof.Machine

/-! ### JTAG frames -/

/-- An IR frame on its transport: the scan where the cache does not hold the code (R181). -/
theorem exec_irInstr_run (c : IrCode) (s : State) (hf : s.fatal = none) (hk : s.active = .jtag) :
    exec (irInstr c) s = .next
      { s.after (irEvents s.dpJtag.ir c) 0 with dpJtag := { s.dpJtag with ir := some (irValue c) } } := by
  rw [exec_irInstr, wireFrame_run _ _ s hf hk, irFrame, jtagSetIr_eq]

/-- Settles O46: each listed pair is a code of R81 with its frame. -/
theorem irFrames : Obligations.IrFrames := by
  intro s v i hf hk hi
  have hcode : ∃ c, v = irValue c ∧ i = irInstr c := by
    simp only [List.mem_cons, Prod.mk.injEq, List.not_mem_nil, or_false] at hi
    rcases hi with ⟨rfl, rfl⟩ | ⟨rfl, rfl⟩ | ⟨rfl, rfl⟩ | ⟨rfl, rfl⟩ | ⟨rfl, rfl⟩
    · exact ⟨.abort, rfl, rfl⟩
    · exact ⟨.dpacc, rfl, rfl⟩
    · exact ⟨.apacc, rfl, rfl⟩
    · exact ⟨.idcode, rfl, rfl⟩
    · exact ⟨.bypass, rfl, rfl⟩
  obtain ⟨c, rfl, rfl⟩ := hcode
  exact exec_irInstr_run c s hf hk

/-- One attempt of an access: the IR where it changes, the scan, the settle delay (R180, R186). -/
theorem jtagEvents_one (cfg : Params) (ir : Option Word4) (c : IrCode) (scan : TransportEvent) :
    jtagEvents cfg ir c scan 1 = irEvents ir c ++ scan :: idleEvents cfg.accAccessDly := by
  simp [jtagEvents]

/-- Settles O48: a capture is data and acknowledge side by side; the IDCODE scan is one access (R188). -/
theorem captureAndIdcodeFrames : Obligations.CaptureAndIdcodeFrames := by
  intro s hf hk
  refine ⟨fun data ack => wireFrame_run .jtag (captureFrame data ack) s hf hk,
    fun data ack => ⟨captureData_append data ack, captureAck_append data ack⟩, ?_⟩
  have hrun : exec .drIdcode32 s = .next (dr32Frame s) := wireFrame_run .jtag dr32Frame s hf hk
  rw [hrun, dr32Frame_eq, jtagEvents_one]
  rfl

/-- The state after the one 35-bit scan of a lone frame under the class `c`, its settle delay included. -/
def State.scanned (s : State) (c : IrCode) (d : Word32) (a : BitVec 2) (rnw : Bool) : State :=
  { s.after (irEvents s.dpJtag.ir c ++ plainScan d a rnw :: idleEvents s.cfg.accAccessDly) 1 with
    dpJtag := { s.dpJtag with ir := some (irValue c) } }

/-- Where the class is the one in force, neither the IR nor its cache changes. -/
theorem State.scanned_of_ir {s : State} {c : IrCode} (hir : s.dpJtag.ir = some (irValue c)) (d : Word32)
    (a : BitVec 2) (rnw : Bool) :
    s.scanned c d a rnw = s.after (plainScan d a rnw :: idleEvents s.cfg.accAccessDly) 1 := by
  have hevents : irEvents s.dpJtag.ir c = [] := if_pos hir
  rw [State.scanned, hevents, ← hir]
  rfl

/-- `DR_ACC35` is one scan under its class, followed by the cache of that class. -/
theorem dr35Frame_scanned (data d : Word32) (a : BitVec 2) (rnw : Bool) (s : State)
    (hd : d = if rnw then 0#32 else data) :
    dr35Frame data a rnw s =
      match dr35Class s.dpJtag.ir with
      | .dpacc =>
        if rnw then s.scanned .dpacc d a rnw else dpWriteCoherence a d (s.scanned .dpacc d a rnw)
      | .apacc => apFrameCoherence a (if rnw then none else some d) (s.scanned .apacc d a rnw)
      | c => s.scanned c d a rnw := by
  rw [dr35Frame_eq, hd]
  cases dr35Class s.dpJtag.ir <;> simp only [jtagEvents_one, State.scanned]

/-- On JTAG the DP writes that a cache follows are those of SELECT and CTRL/STAT (R23, R25). -/
theorem dpWriteCoherence_jtag (a : BitVec 2) (v : Word32) {s : State} (hk : s.active = .jtag) :
    dpWriteCoherence a v s =
      if a = 0b10#2 then { s with dpJtag := { s.dpJtag with currentSelect := some v } }
      else if a = 0b01#2 then { s with dpJtag := { s.dpJtag with orunDetect := v.getLsbD 0 } }
      else s := by
  simp only [dpWriteCoherence, hk, State.setSelect_jtag, State.setOrun_jtag, orunBit]

/-- R169 after an AP frame, where the SELECT cache gives the address and where it is unknown. -/
theorem apFrameCoherence_eq (a : BitVec 2) (written : Option Word32) {s : State} {k : Transport}
    (hk : s.active = k) :
    apFrameCoherence a written s = match (s.dp k).currentSelect with
      | none => s
      | some sel => rawCoherence (sel &&& 0xFF0000F0#32 ||| a.setWidth 32 <<< 2) written s := by
  rw [apFrameCoherence, hk]
  rfl

/-- Settles O47: the frame is one scan under the class that the IR cache gives it, followed by the cache
of that class. -/
theorem drAcc35Frame : Obligations.DrAcc35Frame := by
  rintro s t u data d a rnw hf hk hd rfl rfl
  have hrun : exec (.drAcc35 data a rnw) s = .next (dr35Frame data a rnw s) :=
    wireFrame_run .jtag (dr35Frame data a rnw) s hf hk
  have hframe := dr35Frame_scanned data d a rnw s hd
  rcases dr35Class_cases s.dpJtag.ir with ⟨hc, hir⟩ | ⟨hc, hir⟩ | ⟨hc, habort, hapacc⟩
  · have hscan := State.scanned_of_ir (c := .abort) hir d a rnw
    simp only [hc, hscan] at hframe
    rw [hrun, hframe]
    refine ⟨fun _ => rfl, fun h => ?_, fun _ h => ?_, fun h => absurd hir h⟩
    all_goals exact absurd (hir.symm.trans h) (by decide)
  · have hscan := State.scanned_of_ir (c := .apacc) hir d a rnw
    simp only [hc, hscan] at hframe
    rw [hrun, hframe, apFrameCoherence_eq (k := .jtag) _ _ (by exact hk)]
    refine ⟨fun h => absurd (hir.symm.trans h) (by decide), fun _ hsel => ?_, fun sel _ hsel => ?_,
      fun _ h => absurd hir h⟩
    all_goals simp only [State.dp_jtag, State.after_dpJtag, hsel]
  · have hwrite := dpWriteCoherence_jtag a d (s := s.scanned .dpacc d a rnw) hk
    simp only [hc, hwrite] at hframe
    rw [hrun, hframe]
    refine ⟨fun h => absurd h habort, fun h => absurd h hapacc, fun _ h => absurd h hapacc,
      fun _ _ => ⟨?_, ?_, ?_⟩⟩
    · rintro rfl rfl
      rfl
    · rintro rfl rfl
      rfl
    · rintro (rfl | rfl | rfl)
      · rfl
      · cases rnw <;> rfl
      · cases rnw <;> rfl

/-! ### SWD frames -/

/-- The DP bank a SELECT value chooses, `SELECT[3:0]`, is 0. -/
theorem and_0xF_eq_zero_iff (x : Word32) : x &&& 0xF#32 = 0#32 ↔ x.extractLsb' 0 4 = 0#4 := by
  have hand : (x &&& 0xF#32).toNat = x.toNat % 2 ^ 4 := Nat.and_two_pow_sub_one_eq_mod _ 4
  have hextract : (x.extractLsb' 0 4).toNat = x.toNat % 2 ^ 4 := BitVec.extractLsb'_toNat 0 4 x
  rw [← BitVec.toNat_inj, ← BitVec.toNat_inj, hand, hextract]
  rfl

/-- On SWD sub-address 0b01 is CTRL/STAT in DP bank 0 only (R25, log entry 24). -/
theorem dpWriteCoherence_swd (a : BitVec 2) (v : Word32) {s : State} (hk : s.active = .swd) :
    dpWriteCoherence a v s =
      if a = 0b10#2 then { s with dpSwd := { s.dpSwd with currentSelect := some v } }
      else if a = 0b01#2 then
        if (s.dpSwd.currentSelect.getD 0#32).extractLsb' 0 4 = 0#4 then
          { s with dpSwd := { s.dpSwd with orunDetect := v.getLsbD 0 } }
        else s
      else s := by
  simp only [dpWriteCoherence, hk, State.setSelect_swd, State.setOrun_swd, orunBit, and_0xF_eq_zero_iff]

/-- A SWD read frame on its transport: one packet, its acknowledge recorded, then for an AP the caches. -/
theorem exec_swdReadInstr_run (p : Bool) (a : BitVec 2) (s : State) (hf : s.fatal = none)
    (hk : s.active = .swd) :
    exec (swdReadInstr p a) s = .next
      (let u : State := { s.after (readPacket s.cfg p a (noCmp 32)) 3 with
        lastAck := some ((s.captureAt 0).setWidth 3) }
      if p then apFrameCoherence a none u else u) := by
  rw [exec_swdReadInstr, wireFrame_run _ _ s hf hk]
  cases p <;> simp [swdApFrame, swdDpFrame, swdPacket_read]

/-- A SWD write frame on its transport: one packet, its acknowledge recorded, then the caches. -/
theorem exec_swdWriteInstr_run (p : Bool) (a : BitVec 2) (v : Word32) (s : State) (hf : s.fatal = none)
    (hk : s.active = .swd) :
    exec (swdWriteInstr p a v) s = .next
      (let u : State := { s.after (writePacket s.cfg p a v) 1 with
        lastAck := some ((s.captureAt 0).setWidth 3) }
      if p then apFrameCoherence a (some v) u else dpWriteCoherence a v u) := by
  rw [exec_swdWriteInstr, wireFrame_run _ _ s hf hk]
  cases p <;> simp [swdApFrame, swdDpFrame, swdPacket_write]

/-- The four frames of a list, one to a sub-address. -/
theorem eq_of_mem_subAddresses {f : BitVec 2 → Instr} {a : BitVec 2} {i : Instr}
    (h : (a, i) ∈ [(0b00#2, f 0b00#2), (0b01#2, f 0b01#2), (0b10#2, f 0b10#2), (0b11#2, f 0b11#2)]) :
    i = f a := by
  simp only [List.mem_cons, Prod.mk.injEq, List.not_mem_nil, or_false] at h
  rcases h with ⟨rfl, rfl⟩ | ⟨rfl, rfl⟩ | ⟨rfl, rfl⟩ | ⟨rfl, rfl⟩ <;> rfl

/-- Settles O49: each listed frame is the DP read frame of its sub-address. -/
theorem swdDpReadFrames : Obligations.SwdDpReadFrames := by
  intro s a i hf hk hi
  obtain rfl : i = swdReadInstr false a := eq_of_mem_subAddresses hi
  exact exec_swdReadInstr_run false a s hf hk

/-- Settles O50: each frame is the DP write frame of its sub-address, whose cache follows it. -/
theorem swdDpWriteFrames : Obligations.SwdDpWriteFrames := by
  rintro s u v a hf hk rfl
  have hrun := exec_swdWriteInstr_run false a v s hf hk
  simp only [Bool.false_eq_true, if_false] at hrun
  rw [dpWriteCoherence_swd _ _ (by exact hk)] at hrun
  refine ⟨?_, ?_, ?_, ?_, ?_⟩
  · rintro rfl
    exact hrun
  · rintro rfl hbank
    exact hrun.trans (congrArg _ (if_pos hbank))
  · rintro rfl hbank
    exact hrun.trans (congrArg _ (if_neg hbank))
  · rintro rfl
    exact hrun
  · rintro rfl
    exact hrun

/-- Settles O51: each listed frame is the AP frame of its sub-address, followed by R169. -/
theorem swdApFrames : Obligations.SwdApFrames := by
  intro s v a i hf hk
  refine ⟨fun hi => ?_, fun hi => ?_⟩
  · obtain rfl : i = swdReadInstr true a := eq_of_mem_subAddresses hi
    exact (exec_swdReadInstr_run true a s hf hk).trans
      (congrArg _ (apFrameCoherence_eq (k := .swd) a none (by exact hk)))
  · obtain rfl : i = swdWriteInstr true a v := eq_of_mem_subAddresses (f := (swdWriteInstr true · v)) hi
    exact (exec_swdWriteInstr_run true a v s hf hk).trans
      (congrArg _ (apFrameCoherence_eq (k := .swd) a (some v) (by exact hk)))

end Sys2Proof.Machine

/-! The stored form of the wire frames (R81 to R85, R88, R95): each frame is read back from its bytes, and
bytes that are read as a frame are its bytes. -/

namespace Sys2Proof

open Machine

/-! ### Bytes and bit vectors -/

/-- A value that fits `k` bytes is read back from them. -/
theorem bytesVal_valBytes_toNat {n : Nat} (v : BitVec n) (k : Nat) (h : 2 ^ n ≤ 256 ^ k) :
    bytesVal (valBytes k v.toNat) = v.toNat := by
  rw [bytesVal_valBytes, Nat.mod_eq_of_lt (v.isLt.trans_le h)]

/-- Bytes that fit a bit vector are the bytes of that bit vector. -/
theorem valBytes_ofNat_bytesVal {n k : Nat} {bs : List Byte} (hlen : bs.length = k)
    (h : bytesVal bs < 2 ^ n) : valBytes k (BitVec.ofNat n (bytesVal bs)).toNat = bs := by
  rw [BitVec.toNat_ofNat, Nat.mod_eq_of_lt h, ← hlen, valBytes_bytesVal]

theorem bytesVal_lt (bs : List Byte) : bytesVal bs < 256 ^ bs.length := by
  induction bs with
  | nil => exact Nat.one_pos
  | cons b bs ih =>
    have hb := b.isLt
    rw [List.length_cons, Nat.pow_succ, bytesVal]
    omega

/-- R82: a 35-bit value is its data, sub-address and direction side by side. -/
theorem extract_append_dr35 (v : Word35) :
    v.extractLsb' 3 32 ++ v.extractLsb' 1 2 ++ BitVec.ofBool (v.getLsbD 0) = v := by
  have hhigh : v.extractLsb' 3 32 ++ v.extractLsb' 1 2 = v.extractLsb' 1 34 :=
    BitVec.extractLsb'_append_extractLsb'_eq_extractLsb' rfl
  have hbit : BitVec.ofBool (v.getLsbD 0) = v.extractLsb' 0 1 := by
    apply BitVec.eq_of_getLsbD_eq
    intro i hi
    obtain rfl : i = 0 := by omega
    simp
  have hall : v.extractLsb' 1 34 ++ v.extractLsb' 0 1 = v.extractLsb' 0 35 :=
    BitVec.extractLsb'_append_extractLsb'_eq_extractLsb' rfl
  rw [hhigh, hbit, hall, BitVec.extractLsb'_eq_self]

/-! ### IR codes -/

theorem decode_encode_irInstr (c : IrCode) : decode (encode (irInstr c)) = .ok (irInstr c) := by
  cases c <;> rfl

/-- R81, R95: only the five codes are read, each as its frame. -/
theorem decodeIr_ok {bs : List Byte} {i : Instr} (h : decodeIr bs = .ok i) :
    encode i = ⟨.jtagIr4, bs⟩ ∧ i.wf = true := by
  match bs with
  | [] => cases h
  | _ :: _ :: _ => cases h
  | [b] =>
    have frame {j : Instr} {k : Byte} (hj : encode j = ⟨.jtagIr4, [k]⟩) (hwf : j.wf = true)
        (hb : b.toNat = k.toNat) (h : Except.ok (ε := DecodeError) j = .ok i) :
        encode i = ⟨.jtagIr4, [b]⟩ ∧ i.wf = true := by
      obtain rfl := Except.ok.inj h
      obtain rfl := BitVec.eq_of_toNat_eq hb
      exact ⟨hj, hwf⟩
    simp only [decodeIr] at h
    split at h
    next hb => exact frame (j := .irAbort) (k := 0x8#8) rfl rfl hb h
    next hb => exact frame (j := .irDpacc) (k := 0xA#8) rfl rfl hb h
    next hb => exact frame (j := .irApacc) (k := 0xB#8) rfl rfl hb h
    next hb => exact frame (j := .irIdcode) (k := 0xE#8) rfl rfl hb h
    next hb => exact frame (j := .irBypass) (k := 0xF#8) rfl rfl hb h
    next => cases h

/-! ### 35-bit and 32-bit scans -/

/-- What the bytes of a 35-bit value are read as. -/
theorem decodeDr35_valBytes (v : Word35) :
    decodeDr35 (valBytes 5 v.toNat) =
      if v.getLsbD 0 = true ∧ v.extractLsb' 3 32 ≠ 0#32 then .error .reservedBits
      else .ok (.drAcc35 (v.extractLsb' 3 32) (v.extractLsb' 1 2) (v.getLsbD 0)) := by
  have hval : bytesVal (valBytes 5 v.toNat) = v.toNat := bytesVal_valBytes_toNat v 5 (by decide)
  have hlen : ¬(valBytes 5 v.toNat).length ≠ 5 := not_not_intro (valBytes_length 5 _)
  rw [decodeDr35, if_neg hlen, hval, if_pos v.isLt]
  simp only [BitVec.ofNat_toNat, BitVec.setWidth_eq]

theorem decodeDr35Capture_valBytes (v : Word35) :
    decodeDr35Capture (valBytes 5 v.toNat) = .ok (.drAcc35Capture (captureData v) (captureAck v)) := by
  have hval : bytesVal (valBytes 5 v.toNat) = v.toNat := bytesVal_valBytes_toNat v 5 (by decide)
  have hlen : ¬(valBytes 5 v.toNat).length ≠ 5 := not_not_intro (valBytes_length 5 _)
  rw [decodeDr35Capture, if_neg hlen, hval, if_pos v.isLt]
  simp only [BitVec.ofNat_toNat, BitVec.setWidth_eq, captureData, captureAck]

/-- R82, R183: a shift-in value that reads has data 0, and is read back then. -/
theorem decode_encode_drAcc35 (data : Word32) (a : BitVec 2) (rnw : Bool)
    (h : (Instr.drAcc35 data a rnw).wf = true) :
    decode (encode (.drAcc35 data a rnw)) = .ok (.drAcc35 data a rnw) := by
  have hread : ¬(rnw = true ∧ data ≠ 0#32) := by
    rintro ⟨rfl, hdata⟩
    exact hdata (by simpa [Instr.wf] using h)
  show decodeDr35 (valBytes 5 (data ++ a ++ BitVec.ofBool rnw).toNat) = _
  rw [← drValue_eq_append, decodeDr35_valBytes, drValue_data, drValue_addr2, drValue_rnw,
    if_neg hread]

theorem decodeDr35_ok {bs : List Byte} {i : Instr} (h : decodeDr35 bs = .ok i) :
    encode i = ⟨.jtagDr35, bs⟩ ∧ i.wf = true := by
  unfold decodeDr35 at h
  split at h
  next => cases h
  next hlen =>
    split at h
    next hlt =>
      dsimp only at h
      split at h
      next => cases h
      next hread =>
        obtain rfl := Except.ok.inj h
        refine ⟨?_, ?_⟩
        · rw [encode, extract_append_dr35, valBytes_ofNat_bytesVal (not_not.mp hlen) hlt]
        · simpa [Instr.wf, imp_iff_not_or] using hread
    next => cases h

theorem decode_encode_drAcc35Capture (data : Word32) (ack : Word3) :
    decode (encode (.drAcc35Capture data ack)) = .ok (.drAcc35Capture data ack) := by
  show decodeDr35Capture (valBytes 5 (data ++ ack).toNat) = _
  rw [decodeDr35Capture_valBytes, captureData_append, captureAck_append]

theorem decodeDr35Capture_ok {bs : List Byte} {i : Instr} (h : decodeDr35Capture bs = .ok i) :
    encode i = ⟨.jtagDr35Capture, bs⟩ ∧ i.wf = true := by
  unfold decodeDr35Capture at h
  split at h
  next => cases h
  next hlen =>
    split at h
    next hlt =>
      obtain rfl := Except.ok.inj h
      refine ⟨congrArg (PortItem.mk .jtagDr35Capture) ?_, rfl⟩
      exact (congrArg (fun v : Word35 => valBytes 5 v.toNat) (captureData_append_captureAck _)).trans
        (valBytes_ofNat_bytesVal (not_not.mp hlen) hlt)
    next => cases h

/-- R83: the IDCODE scan is 32 bits of 0. -/
theorem decodeDr32_ok {bs : List Byte} {i : Instr} (h : decodeDr32 bs = .ok i) :
    encode i = ⟨.jtagDr32, bs⟩ ∧ i.wf = true := by
  unfold decodeDr32 at h
  split at h
  next => cases h
  next hlen =>
    split at h
    next hzero =>
      obtain rfl := Except.ok.inj h
      have hbytes : valBytes 4 0 = bs := by rw [← not_not.mp hlen, ← hzero, valBytes_bytesVal]
      exact ⟨congrArg (PortItem.mk .jtagDr32) hbytes, rfl⟩
    next => cases h

/-! ### SWD requests -/

theorem swdReadOf_request (p : Bool) (a : BitVec 2) :
    swdReadOf (swdRequest p true a) = some (swdReadInstr p a) := by
  revert p a
  decide

theorem swdReadOf_writeRequest (p : Bool) (a : BitVec 2) : swdReadOf (swdRequest p false a) = none := by
  revert p a
  decide

theorem swdWriteOf_request (p : Bool) (a : BitVec 2) (v : Word32) :
    swdWriteOf (swdRequest p false a) v = some (swdWriteInstr p a v) := by
  rcases subAddress_cases a with rfl | rfl | rfl | rfl <;> cases p <;> rfl

/-- R85: the read requests are the eight request bytes with RnW set. -/
theorem swdReadOf_eq_some {b : Byte} {i : Instr} (h : swdReadOf b = some i) :
    ∃ p a, b = swdRequest p true a ∧ i = swdReadInstr p a := by
  have row {k : Byte} (p : Bool) (a : BitVec 2) (hk : k = swdRequest p true a)
      (hb : b.toNat = k.toNat) : ∃ p a, b = swdRequest p true a ∧ i = swdReadInstr p a := by
    obtain rfl : b = swdRequest p true a := (BitVec.eq_of_toNat_eq hb).trans hk
    exact ⟨p, a, rfl, Option.some.inj (h.symm.trans (swdReadOf_request p a))⟩
  have hsome : swdReadOf b ≠ none := by simp [h]
  unfold swdReadOf at hsome
  split at hsome
  next hb => exact row (k := 0xA5#8) false 0b00#2 rfl hb
  next hb => exact row (k := 0x8D#8) false 0b01#2 rfl hb
  next hb => exact row (k := 0x95#8) false 0b10#2 rfl hb
  next hb => exact row (k := 0xBD#8) false 0b11#2 rfl hb
  next hb => exact row (k := 0x87#8) true 0b00#2 rfl hb
  next hb => exact row (k := 0xAF#8) true 0b01#2 rfl hb
  next hb => exact row (k := 0xB7#8) true 0b10#2 rfl hb
  next hb => exact row (k := 0x9F#8) true 0b11#2 rfl hb
  next => exact absurd rfl hsome

/-- R85: the write requests are the eight request bytes with RnW clear. -/
theorem swdWriteOf_eq_some {b : Byte} {v : Word32} {i : Instr} (h : swdWriteOf b v = some i) :
    ∃ p a, b = swdRequest p false a ∧ i = swdWriteInstr p a v := by
  have row {k : Byte} (p : Bool) (a : BitVec 2) (hk : k = swdRequest p false a)
      (hb : b.toNat = k.toNat) : ∃ p a, b = swdRequest p false a ∧ i = swdWriteInstr p a v := by
    obtain rfl : b = swdRequest p false a := (BitVec.eq_of_toNat_eq hb).trans hk
    exact ⟨p, a, rfl, Option.some.inj (h.symm.trans (swdWriteOf_request p a v))⟩
  have hsome : swdWriteOf b v ≠ none := by simp [h]
  unfold swdWriteOf at hsome
  split at hsome
  next hb => exact row (k := 0x81#8) false 0b00#2 rfl hb
  next hb => exact row (k := 0xA9#8) false 0b01#2 rfl hb
  next hb => exact row (k := 0xB1#8) false 0b10#2 rfl hb
  next hb => exact row (k := 0x99#8) false 0b11#2 rfl hb
  next hb => exact row (k := 0xA3#8) true 0b00#2 rfl hb
  next hb => exact row (k := 0x8B#8) true 0b01#2 rfl hb
  next hb => exact row (k := 0x93#8) true 0b10#2 rfl hb
  next hb => exact row (k := 0xBB#8) true 0b11#2 rfl hb
  next => exact absurd rfl hsome

theorem decode_encode_swdReadInstr (p : Bool) (a : BitVec 2) :
    decode (encode (swdReadInstr p a)) = .ok (swdReadInstr p a) := by
  rw [encode_swdReadInstr]
  simp [decode, decodeSwd, swdReadOf_request]

theorem decode_encode_swdWriteInstr (p : Bool) (a : BitVec 2) (v : Word32) :
    decode (encode (swdWriteInstr p a v)) = .ok (swdWriteInstr p a v) := by
  have hval : bytesVal (valBytes 4 v.toNat) = v.toNat := bytesVal_valBytes_toNat v 4 (by decide)
  rw [encode_swdWriteInstr]
  simp [decode, decodeSwd, swdReadOf_writeRequest, swdWriteOf_request, hval, valBytes_length]

theorem swdReadInstr_wf (p : Bool) (a : BitVec 2) : (swdReadInstr p a).wf = true := by
  revert p a
  decide

theorem swdWriteInstr_wf (p : Bool) (a : BitVec 2) (v : Word32) : (swdWriteInstr p a v).wf = true := by
  rcases subAddress_cases a with rfl | rfl | rfl | rfl <;> cases p <;> rfl

/-- R85, R88: a read request stands alone, and a write request with its four data bytes. -/
theorem decodeSwd_ok {bs : List Byte} {i : Instr} (h : decodeSwd bs = .ok i) :
    encode i = ⟨.swdRequest8, bs⟩ ∧ i.wf = true := by
  cases bs with
  | nil => cases h
  | cons b bs =>
    simp only [decodeSwd] at h
    split at h
    next hread =>
      obtain ⟨p, a, rfl, rfl⟩ := swdReadOf_eq_some hread
      split at h
      next hbs =>
        obtain rfl := Except.ok.inj h
        exact ⟨by rw [encode_swdReadInstr, hbs], swdReadInstr_wf p a⟩
      next => cases h
    next hwrite =>
      obtain ⟨p, a, rfl, rfl⟩ := swdWriteOf_eq_some hwrite
      split at h
      next hlen =>
        obtain rfl := Except.ok.inj h
        have hlt : bytesVal bs < 256 ^ 4 := hlen ▸ bytesVal_lt bs
        exact ⟨by rw [encode_swdWriteInstr, valBytes_ofNat_bytesVal hlen hlt], swdWriteInstr_wf p a _⟩
      next => cases h
    next => cases h

/-! ### All frames -/

/-- Every well-formed frame is read back. -/
theorem decode_encode_frame {i : Instr} (hi : ¬i.isCommand = true) (hwf : i.wf = true) :
    decode (encode i) = .ok i := by
  rcases frame_cases i hi with ⟨c, rfl⟩ | ⟨d, a, r, rfl⟩ | ⟨d, k, rfl⟩ | rfl | ⟨p, a, rfl⟩ |
    ⟨p, a, v, rfl⟩
  · exact decode_encode_irInstr c
  · exact decode_encode_drAcc35 d a r hwf
  · exact decode_encode_drAcc35Capture d k
  · rfl
  · exact decode_encode_swdReadInstr p a
  · exact decode_encode_swdWriteInstr p a v

/-- Bytes of a frame format that are read as an instruction are the bytes of that instruction. -/
theorem decode_frame_ok {p : PortItem} {i : Instr} (hp : p.format ≠ .command)
    (h : decode p = .ok i) : encode i = p ∧ i.wf = true := by
  obtain ⟨format, bytes⟩ := p
  cases format with
  | command => exact absurd rfl hp
  | jtagIr4 => exact decodeIr_ok h
  | jtagDr35 => exact decodeDr35_ok h
  | jtagDr35Capture => exact decodeDr35Capture_ok h
  | jtagDr32 => exact decodeDr32_ok h
  | swdRequest8 => exact decodeSwd_ok h

end Sys2Proof

/-! The lines of the commands (R99): what the reader makes of the words that the writer writes, and what it
answers at all. -/

namespace Sys2Proof

/-! ### Options -/

theorem OptKey.word_injective : Function.Injective OptKey.word := by
  intro j k
  cases j <;> cases k <;> decide

/-- Each optional operand is found by its written key among those a command takes. -/
theorem find_word {allowed : List OptKey} {k : OptKey} (hk : k ∈ allowed) :
    allowed.find? (fun j => decide (j.word = k.word)) = some k := by
  induction allowed with
  | nil => cases hk
  | cons j js ih =>
    by_cases hj : j = k
    · simp [hj]
    · have hword : ¬j.word = k.word := fun h => hj (OptKey.word_injective h)
      have hmem : k ∈ js := (List.mem_cons.mp hk).resolve_left (Ne.symm hj)
      simp [hword, ih hmem]

/-- A written option is read first, and the rest of the line after it. -/
theorem readOptions_optWord {allowed : List OptKey} {k : OptKey} {t : Token} {o o' : OptVals}
    (hk : k ∈ allowed) (hf : k ≠ .force) (hset : setOption k t o = .ok o') (ts : List Token) :
    readOptions allowed (optWord k t :: ts) o = readOptions allowed ts o' := by
  rw [readOptions, readOption_optWord allowed k t o (find_word hk) hf, hset]
  rfl

theorem setOption_attempts (n : Nat) {o : OptVals} (h : o.attempts = none) :
    setOption .attempts (decNat n) o = .ok { o with attempts := some n } := by
  rw [setOption, natOf_decNat, h]
  rfl

theorem setOption_wAttempts (n : Nat) {o : OptVals} (h : o.wAttempts = none) :
    setOption .wAttempts (decNat n) o = .ok { o with wAttempts := some n } := by
  rw [setOption, natOf_decNat, h]
  rfl

theorem setOption_rAttempts (n : Nat) {o : OptVals} (h : o.rAttempts = none) :
    setOption .rAttempts (decNat n) o = .ok { o with rAttempts := some n } := by
  rw [setOption, natOf_decNat, h]
  rfl

theorem setOption_exp (v : Word32) {o : OptVals} (h : o.exp = none) :
    setOption .exp (hexWord v) o = .ok { o with exp := some v } := by
  rw [setOption, word32Of_hexWord, h]
  rfl

theorem setOption_mask {k : OptKey} (hk : k = .mask ∨ k = .rMask) (v : Word32) {o : OptVals}
    (h : o.mask = none) : setOption k (hexWord v) o = .ok { o with mask := some v } := by
  rcases hk with rfl | rfl <;> rw [setOption, word32Of_hexWord, h] <;> rfl

theorem readOptions_expWords {allowed : List OptKey} (hk : .exp ∈ allowed) (e : Option Word32)
    {o : OptVals} (h : o.exp = none) (ts : List Token) :
    readOptions allowed (expWords e ++ ts) o = readOptions allowed ts { o with exp := e } := by
  cases e with
  | none =>
    have hsame : { o with exp := none } = o := by rw [← h]
    rw [hsame]
    rfl
  | some v => exact readOptions_optWord hk nofun (setOption_exp v h) ts

theorem readOptions_forceWords {allowed : List OptKey} (hk : .force ∈ allowed) (f : Bool) {o : OptVals}
    (h : o.force = false) : readOptions allowed (forceWords f) o = .ok { o with force := f } := by
  cases f with
  | false =>
    have hsame : { o with force := false } = o := by rw [← h]
    rw [hsame]
    rfl
  | true =>
    show (do readOptions allowed [] (← readOption allowed OptKey.force.word o)) = _
    rw [readOption_force allowed o (find_word hk), h]
    rfl

/-- Written read options are read back, and the rest of the line after them. -/
theorem readOptions_readWords {allowed : List OptKey} (h : [.exp, .mask, .attempts] ⊆ allowed)
    (o : ReadOpts) (ts : List Token) :
    readOptions allowed (o.words ++ ts) {} =
      readOptions allowed ts { exp := o.exp, mask := some o.mask, attempts := some o.attempts } := by
  obtain ⟨he, hm, ha⟩ : .exp ∈ allowed ∧ .mask ∈ allowed ∧ .attempts ∈ allowed := by simpa using h
  rw [ReadOpts.words, List.append_assoc, readOptions_expWords he _ rfl, List.cons_append,
    readOptions_optWord hm nofun (setOption_mask (.inl rfl) _ rfl), List.cons_append,
    readOptions_optWord ha nofun (setOption_attempts _ rfl), List.nil_append]

theorem readOptions_writeWords {allowed : List OptKey} (ha : .attempts ∈ allowed) (o : WriteOpts)
    (ts : List Token) :
    readOptions allowed (o.words ++ ts) {} = readOptions allowed ts { attempts := some o.attempts } :=
  readOptions_optWord ha nofun (setOption_attempts _ rfl) ts

theorem readOptions_compositionWords {allowed : List OptKey} {k : OptKey} (hk : k = .mask ∨ k = .rMask)
    (h : [.exp, k, .wAttempts, .rAttempts] ⊆ allowed) (o : WROpts) (ts : List Token) :
    readOptions allowed (o.words k ++ ts) {} =
      readOptions allowed ts
        { exp := o.exp, mask := some o.mask, wAttempts := some o.wAttempts,
          rAttempts := some o.rAttempts } := by
  obtain ⟨he, hm, hw, hr⟩ :
      .exp ∈ allowed ∧ k ∈ allowed ∧ .wAttempts ∈ allowed ∧ .rAttempts ∈ allowed := by simpa using h
  have hf : k ≠ .force := by rcases hk with rfl | rfl <;> nofun
  rw [WROpts.words, List.append_assoc, readOptions_expWords he _ rfl, List.cons_append,
    readOptions_optWord hm hf (setOption_mask hk _ rfl), List.cons_append,
    readOptions_optWord hw nofun (setOption_wAttempts _ rfl), List.cons_append,
    readOptions_optWord hr nofun (setOption_rAttempts _ rfl), List.nil_append]

/-! ### Clean words -/

theorem decNat_optWord_clean (k : OptKey) (n : Nat) : cleanWord (optWord k (decNat n)) :=
  optWord_clean k _ (decNat_clean n).2

theorem hexWord_optWord_clean (k : OptKey) (v : Word32) : cleanWord (optWord k (hexWord v)) :=
  optWord_clean k _ (hexWord_clean v).2

theorem expWords_clean (e : Option Word32) : ∀ t ∈ expWords e, cleanWord t := by
  cases e with
  | none => nofun
  | some v => exact List.forall_mem_singleton.mpr (hexWord_optWord_clean .exp v)

theorem forceWords_clean (f : Bool) : ∀ t ∈ forceWords f, cleanWord t := by
  cases f with
  | false => nofun
  | true => exact List.forall_mem_singleton.mpr ⟨by decide, by decide⟩

theorem readWords_clean (o : ReadOpts) : ∀ t ∈ o.words, cleanWord t :=
  List.forall_mem_append.mpr ⟨expWords_clean o.exp,
    by simp [hexWord_optWord_clean, decNat_optWord_clean]⟩

theorem writeWords_clean (o : WriteOpts) : ∀ t ∈ o.words, cleanWord t :=
  List.forall_mem_singleton.mpr (decNat_optWord_clean .attempts o.attempts)

theorem compositionWords_clean (k : OptKey) (o : WROpts) : ∀ t ∈ o.words k, cleanWord t :=
  List.forall_mem_append.mpr ⟨expWords_clean o.exp,
    by simp [hexWord_optWord_clean, decNat_optWord_clean]⟩

theorem cleanWord.cons {t : Token} {ts : List Token} (ht : cleanWord t)
    (hts : ∀ u ∈ ts, cleanWord u) : ∀ u ∈ t :: ts, cleanWord u :=
  List.forall_mem_cons.mpr ⟨ht, hts⟩

theorem cleanWords_append {ts us : List Token} (hts : ∀ u ∈ ts, cleanWord u)
    (hus : ∀ u ∈ us, cleanWord u) : ∀ u ∈ ts ++ us, cleanWord u :=
  List.forall_mem_append.mpr ⟨hts, hus⟩

theorem transport_clean (k : Transport) : cleanWord k.word :=
  validName_clean _ (by cases k <;> rfl)

/-! ### The readers, on the operands of the writer -/

theorem readReadDp_words (r : DpRef) (o : ReadOpts) (h : r.wf = true) :
    readReadDp (r.word :: o.words) = .ok (.readDp r o) := by
  rw [readReadDp, ← List.append_nil o.words, readOptions_readWords (by decide), readOptions,
    dpRefOf_word r h]
  rfl

theorem readWriteDp_words (r : DpRef) (v : Word32) (o : WriteOpts) (h : r.wf = true) :
    readWriteDp (r.word :: hexWord v :: o.words) = .ok (.writeDp r v o) := by
  rw [readWriteDp, ← List.append_nil o.words, readOptions_writeWords (by decide), readOptions,
    dpRefOf_word r h, word32Of_hexWord]
  rfl

theorem readWriteReadDp_words (r : DpRef) (v : Word32) (o : WROpts) (h : r.wf = true) :
    readWriteReadDp (r.word :: hexWord v :: o.words .mask) = .ok (.writeReadDp r v o) := by
  rw [readWriteReadDp, ← List.append_nil (o.words .mask),
    readOptions_compositionWords (.inl rfl) (by decide), readOptions, dpRefOf_word r h, word32Of_hexWord]
  rfl

theorem readReadAp_words (a : Option Word32) (o : ReadOpts) :
    readReadAp (addrWord a :: o.words) = .ok (.readAp a o) := by
  rw [readReadAp, ← List.append_nil o.words, readOptions_readWords (by decide), readOptions,
    addrOf_word]
  rfl

theorem readWriteAp_words (a : Option Word32) (v : Word32) (o : WriteOpts) :
    readWriteAp (addrWord a :: hexWord v :: o.words) = .ok (.writeAp a v o) := by
  rw [readWriteAp, ← List.append_nil o.words, readOptions_writeWords (by decide), readOptions,
    addrOf_word, word32Of_hexWord]
  rfl

theorem readSetApSelect_words (a : Option Word32) :
    readSetApSelect [addrWord a] = .ok (.setApSelect a) := by
  rw [readSetApSelect, addrOf_word]
  rfl

theorem readMemSetSize_words (r : ApRef) (w : Nat) (h : r.wf = true) :
    readMemSetSize [r.word, decNat w] = .ok (.memSetSize r w) := by
  rw [readMemSetSize, apRefOf_word r h, natOf_decNat]
  rfl

theorem readMemSetAddr_words (r : ApRef) (a : Option Word32) (f : Bool) (h : r.wf = true) :
    readMemSetAddr (r.word :: addrWord a :: forceWords f) = .ok (.memSetAddr r a f) := by
  rw [readMemSetAddr, readOptions_forceWords (by decide) f rfl, apRefOf_word r h, addrOf_word]
  rfl

theorem readMemRead_words (r : ApRef) (a : Option Word32) (w : Nat) (o : ReadOpts) (f : Bool)
    (h : r.wf = true) :
    readMemRead (r.word :: addrWord a :: decNat w :: (o.words ++ forceWords f)) =
      .ok (.memRead r a w o f) := by
  rw [readMemRead, readOptions_readWords (by decide), readOptions_forceWords (by decide) f rfl,
    apRefOf_word r h, addrOf_word, natOf_decNat]
  rfl

theorem readMemWrite_words (r : ApRef) (a : Option Word32) (v : Word32) (w : Nat) (o : WriteOpts)
    (f : Bool) (h : r.wf = true) :
    readMemWrite (r.word :: addrWord a :: hexWord v :: decNat w :: (o.words ++ forceWords f)) =
      .ok (.memWrite r a v w o f) := by
  rw [readMemWrite, readOptions_writeWords (by decide), readOptions_forceWords (by decide) f rfl,
    apRefOf_word r h, addrOf_word, word32Of_hexWord, natOf_decNat]
  rfl

theorem readMemWriteRead_words (r : ApRef) (a : Option Word32) (v : Word32) (w : Nat) (o : WROpts)
    (f : Bool) (h : r.wf = true) :
    readMemWriteRead
        (r.word :: addrWord a :: hexWord v :: decNat w :: (o.words .rMask ++ forceWords f)) =
      .ok (.memWriteRead r a v w o f) := by
  rw [readMemWriteRead, readOptions_compositionWords (.inr rfl) (by decide),
    readOptions_forceWords (by decide) f rfl, apRefOf_word r h, addrOf_word, word32Of_hexWord,
    natOf_decNat]
  rfl

theorem readSetDp_words (k : Transport) : readSetDp [k.word] = .ok (.setDp k) := by
  cases k <;> decide

/-! ### Lines -/

/-- A written line is read by the reader of its operation name. -/
theorem decode_encodeLine {m : String} {ops : List Token} {i : Instr}
    {reader : List Token → Except DecodeError Instr} (hops : ∀ t ∈ ops, cleanWord t)
    (hread : reader ops = .ok i) (hm : validName (ascii m) = true := by rfl)
    (hreader : ∀ line ws, lineWords line = (ascii m, ws) → decodeCommand line = reader ws := by
      intro _ _ h
      rw [decodeCommand, h]
      rfl) :
    decode (encodeLine m ops) = .ok i :=
  (hreader _ _ (lineWords_line (ascii m) ops (validName_clean _ hm) hops)).trans hread

/-- Every well-formed command is read back from its line. -/
theorem decode_encode_command {i : Instr} (hi : i.isCommand = true) (hwf : i.wf = true) :
    decode (encode i) = .ok i := by
  cases i with
  | readDp r o =>
    exact decode_encodeLine ((dpRef_clean r hwf).cons (readWords_clean o)) (readReadDp_words r o hwf)
  | writeDp r v o =>
    exact decode_encodeLine ((dpRef_clean r hwf).cons <| (hexWord_clean v).cons <| writeWords_clean o)
      (readWriteDp_words r v o hwf)
  | writeReadDp r v o =>
    exact decode_encodeLine
      ((dpRef_clean r hwf).cons <| (hexWord_clean v).cons <| compositionWords_clean .mask o)
      (readWriteReadDp_words r v o hwf)
  | readAp a o =>
    exact decode_encodeLine ((addrWord_clean a).cons (readWords_clean o)) (readReadAp_words a o)
  | writeAp a v o =>
    exact decode_encodeLine ((addrWord_clean a).cons <| (hexWord_clean v).cons <| writeWords_clean o)
      (readWriteAp_words a v o)
  | setApSelect a => exact decode_encodeLine ((addrWord_clean a).cons nofun) (readSetApSelect_words a)
  | memSetSize r w =>
    exact decode_encodeLine ((apRef_clean r hwf).cons <| (decNat_clean w).cons nofun)
      (readMemSetSize_words r w hwf)
  | memSetAddr r a f =>
    exact decode_encodeLine ((apRef_clean r hwf).cons <| (addrWord_clean a).cons <| forceWords_clean f)
      (readMemSetAddr_words r a f hwf)
  | memRead r a w o f =>
    exact decode_encodeLine
      ((apRef_clean r hwf).cons <| (addrWord_clean a).cons <| (decNat_clean w).cons <|
        cleanWords_append (readWords_clean o) (forceWords_clean f))
      (readMemRead_words r a w o f hwf)
  | memWrite r a v w o f =>
    exact decode_encodeLine
      ((apRef_clean r hwf).cons <| (addrWord_clean a).cons <| (hexWord_clean v).cons <|
        (decNat_clean w).cons <| cleanWords_append (writeWords_clean o) (forceWords_clean f))
      (readMemWrite_words r a v w o f hwf)
  | memWriteRead r a v w o f =>
    exact decode_encodeLine
      ((apRef_clean r hwf).cons <| (addrWord_clean a).cons <| (hexWord_clean v).cons <|
        (decNat_clean w).cons <|
          cleanWords_append (compositionWords_clean .rMask o) (forceWords_clean f))
      (readMemWriteRead_words r a v w o f hwf)
  | setDp k => exact decode_encodeLine ((transport_clean k).cons nofun) (readSetDp_words k)
  | resetDp => exact decode_encodeLine (reader := readResetDp) nofun rfl
  | _ => cases hi

/-- Settles O4: a command is read back from the words of its line, a frame from its bytes. -/
theorem decodeOfEncode : Obligations.DecodeOfEncode := by
  intro i hwf
  by_cases hi : i.isCommand = true
  · exact decode_encode_command hi hwf
  · exact decode_encode_frame hi hwf

/-! ### What the readers answer -/

/-- What a reader of a command line may answer. -/
def Instr.isWritten (i : Instr) : Prop := i.isCommand = true ∧ i.wf = true

theorem dpRefOf_wf {t : Token} {r : DpRef} (h : dpRefOf t = .ok r) : r.wf = true := by
  unfold dpRefOf at h
  split at h
  next => exact Except.ok.inj h ▸ rfl
  next hnone =>
    split at h
    next hvalid =>
      obtain rfl := Except.ok.inj h
      simp [DpRef.wf, hvalid, hnone]
    next =>
      split at h
      next =>
        cases hw : word32Of t with
        | error e => rw [hw] at h; cases h
        | ok v => rw [hw] at h; exact Except.ok.inj h ▸ rfl
      next => cases h

theorem apRefOf_wf {t : Token} {r : ApRef} (h : apRefOf t = .ok r) : r.wf = true := by
  unfold apRefOf at h
  split at h
  next hvalid => exact Except.ok.inj h ▸ hvalid
  next =>
    split at h
    next =>
      cases hn : natOf t with
      | error e => rw [hn] at h; cases h
      | ok n => rw [hn] at h; exact Except.ok.inj h ▸ rfl
    next => cases h

section

variable {i : Instr}

theorem ok_written {j : Instr} (hj : j.isWritten) (h : Except.ok (ε := DecodeError) j = .ok i) :
    i.isWritten :=
  Except.ok.inj h ▸ hj

theorem bind_written {α : Type} {x : Except DecodeError α} {f : α → Except DecodeError Instr}
    (hf : ∀ a, x = .ok a → f a = .ok i → i.isWritten) (h : (x >>= f) = .ok i) : i.isWritten := by
  cases x with
  | error e => cases h
  | ok a => exact hf a rfl h

theorem ite_written {c : Prop} [Decidable c] {x y : Except DecodeError Instr}
    (hx : x = .ok i → i.isWritten) (hy : y = .ok i → i.isWritten) :
    (if c then x else y) = .ok i → i.isWritten := by
  split
  · exact hx
  · exact hy

theorem readReadDp_written : ∀ {ws : List Token}, readReadDp ws = .ok i → i.isWritten
  | [] => nofun
  | _ :: _ => 
    bind_written fun _ _ => bind_written fun _ hr => ok_written ⟨rfl, dpRefOf_wf hr⟩

theorem readWriteDp_written : ∀ {ws : List Token}, readWriteDp ws = .ok i → i.isWritten
  | [] | [_] => nofun
  | _ :: _ :: _ => 
    bind_written fun _ _ => bind_written fun _ hr => bind_written fun _ _ =>
    ok_written ⟨rfl, dpRefOf_wf hr⟩

theorem readWriteReadDp_written : ∀ {ws : List Token}, readWriteReadDp ws = .ok i → i.isWritten
  | [] | [_] => nofun
  | _ :: _ :: _ => 
    bind_written fun _ _ => bind_written fun _ hr => bind_written fun _ _ =>
    ok_written ⟨rfl, dpRefOf_wf hr⟩

theorem readReadAp_written : ∀ {ws : List Token}, readReadAp ws = .ok i → i.isWritten
  | [] => ok_written ⟨rfl, rfl⟩
  | _ :: _ => 
    bind_written fun _ _ => bind_written fun _ _ => ok_written ⟨rfl, rfl⟩

theorem readWriteAp_written : ∀ {ws : List Token}, readWriteAp ws = .ok i → i.isWritten
  | [] | [_] => nofun
  | _ :: _ :: _ => 
    bind_written fun _ _ => bind_written fun _ _ => bind_written fun _ _ => ok_written ⟨rfl, rfl⟩

theorem readSetApSelect_written : ∀ {ws : List Token}, readSetApSelect ws = .ok i → i.isWritten
  | [] => ok_written ⟨rfl, rfl⟩
  | [_] => 
    bind_written fun _ _ => ok_written ⟨rfl, rfl⟩
  | _ :: _ :: _ => nofun

theorem readMemSetSize_written : ∀ {ws : List Token}, readMemSetSize ws = .ok i → i.isWritten
  | [] | [_] | _ :: _ :: _ :: _ => nofun
  | [_, _] => 
    bind_written fun _ hr => bind_written fun _ _ => ok_written ⟨rfl, apRefOf_wf hr⟩

theorem readMemSetAddr_written : ∀ {ws : List Token}, readMemSetAddr ws = .ok i → i.isWritten
  | [] | [_] => nofun
  | _ :: _ :: _ => 
    bind_written fun _ _ => bind_written fun _ hr => bind_written fun _ _ =>
    ok_written ⟨rfl, apRefOf_wf hr⟩

theorem readMemRead_written : ∀ {ws : List Token}, readMemRead ws = .ok i → i.isWritten
  | [] | [_] | [_, _] => nofun
  | _ :: _ :: _ :: _ => 
    bind_written fun _ _ => bind_written fun _ hr => bind_written fun _ _ =>
    bind_written fun _ _ => ok_written ⟨rfl, apRefOf_wf hr⟩

theorem readMemWrite_written : ∀ {ws : List Token}, readMemWrite ws = .ok i → i.isWritten
  | [] | [_] | [_, _] | [_, _, _] => nofun
  | _ :: _ :: _ :: _ :: _ => 
    bind_written fun _ _ => bind_written fun _ hr => bind_written fun _ _ =>
    bind_written fun _ _ => bind_written fun _ _ => ok_written ⟨rfl, apRefOf_wf hr⟩

theorem readMemWriteRead_written : ∀ {ws : List Token}, readMemWriteRead ws = .ok i → i.isWritten
  | [] | [_] | [_, _] | [_, _, _] => nofun
  | _ :: _ :: _ :: _ :: _ => 
    bind_written fun _ _ => bind_written fun _ hr => bind_written fun _ _ =>
    bind_written fun _ _ => bind_written fun _ _ => ok_written ⟨rfl, apRefOf_wf hr⟩

theorem readSetDp_written : ∀ {ws : List Token}, readSetDp ws = .ok i → i.isWritten
  | [] | _ :: _ :: _ => nofun
  | [_] => 
    bind_written fun _ _ => ok_written ⟨rfl, rfl⟩

theorem readResetDp_written : ∀ {ws : List Token}, readResetDp ws = .ok i → i.isWritten
  | [] => ok_written ⟨rfl, rfl⟩
  | _ :: _ => nofun

/-- A line is read as a well-formed command, or not at all. -/
theorem decodeCommand_written {line : List Byte} :
    decodeCommand line = .ok i → i.isWritten :=
  ite_written readReadDp_written <| ite_written readWriteDp_written <|
    ite_written readWriteReadDp_written <| ite_written readReadAp_written <|
    ite_written readWriteAp_written <| ite_written readSetApSelect_written <|
    ite_written readMemSetSize_written <| ite_written readMemSetAddr_written <|
    ite_written readMemRead_written <| ite_written readMemWrite_written <|
    ite_written readMemWriteRead_written <| ite_written readSetDp_written <|
    ite_written readResetDp_written <| nofun

end

/-- Settles O6: a line is read by one of the 13 readers, and a frame from its own bytes. -/
theorem decodedIsWellFormed : Obligations.DecodedIsWellFormed := by
  intro p i h
  by_cases hp : p.format = .command
  · rw [decode, hp] at h
    exact (decodeCommand_written h).2
  · exact (decode_frame_ok hp h).2

/-- Settles O5: a line is read as no frame, and a frame only from its own bytes. -/
theorem encodeOfDecodedFrame : Obligations.EncodeOfDecodedFrame := by
  intro p i h hi
  by_cases hp : p.format = .command
  · rw [decode, hp] at h
    have hcommand : i.isCommand = true := (decodeCommand_written h).1
    rw [hi] at hcommand
    cases hcommand
  · exact (decode_frame_ok hp h).1

/-- Settles O3: the ten stored forms, each read by evaluation. -/
theorem sampleWordsDecode : Obligations.SampleWordsDecode := by
  refine ⟨rfl, rfl, rfl, rfl, rfl, rfl, rfl, ?_, ?_, ?_⟩
  · decide
  · decide
  · decide

end Sys2Proof

/-! The DP register engine: what a register reference resolves to, and `read_dp`, `write_dp` and
`write_read_dp` as the states they answer (R120 to R139). -/

namespace Sys2Proof.Machine

/-! ### Register resolution -/

/-- R122: a raw DP address that reaches a register is one of four, and the register is not WCR. -/
theorem resolveDp_addr_inv {k : Transport} {read : Bool} {d : Word32} {n : DpName}
    (h : resolveDp k read (.addr d) = some n) : d.toNat ∈ [0x0, 0x4, 0x8, 0xC] ∧ n ≠ .wcr := by
  cases read
  all_goals
    simp only [resolveDp, dpReadAddr, dpWriteAddr, if_true, Bool.false_eq_true, if_false] at h
    split at h
  all_goals cases h
  all_goals next hd => exact ⟨by simp [hd], by cases k <;> decide⟩

theorem resolveDp_addr_eq_none {k : Transport} {read : Bool} {d : Word32}
    (hd : d.extractLsb' 0 2 ≠ 0#2 ∨ 0xC < d.toNat) : resolveDp k read (.addr d) = none := by
  refine Option.eq_none_iff_forall_ne_some.mpr fun n hn => ?_
  obtain ⟨haddr, -⟩ := resolveDp_addr_inv hn
  have hlow : (d.extractLsb' 0 2).toNat = d.toNat % 4 := BitVec.extractLsb'_toNat 0 2 d
  simp only [List.mem_cons, List.not_mem_nil, or_false] at haddr
  rcases hd with halign | hrange
  · exact halign (BitVec.eq_of_toNat_eq (hlow.trans (show d.toNat % 4 = 0 by omega)))
  · omega

/-- Settles O11: a name is looked up in R121, and a raw address reaches a register at four values only. -/
theorem registerResolution : Obligations.RegisterResolution := by
  refine ⟨?_, fun k read d => resolveDp_addr_eq_none, ?_, rfl, rfl,
    fun k read d h => (resolveDp_addr_inv h).2 rfl, fun _ _ _ => rfl⟩
  · intro k read n
    cases k <;> cases n <;> rfl
  · intro k
    exact ⟨rfl, rfl, rfl, rfl, rfl, rfl, rfl⟩

/-! ### Skips (R123), and admission (R292) -/

section

variable {s : State} {k : Transport} {r : DpRef} {n : DpName} (hk : s.active = k)

include hk

theorem readDpBody_unknown (o : ReadOpts) (hr : resolveDp k true r = none) :
    readDpBody r o s = (s, ⟨.skip .unknownRegister, none, true⟩) := by
  simp only [readDpBody, hk, hr]
  rfl

theorem readDpBody_writeOnly (o : ReadOpts) (hr : resolveDp k true r = some n)
    (hd : dpReadable k n = false) :
    readDpBody r o s = (s, ⟨.skip .readOfWriteOnly, none, true⟩) := by
  simp only [readDpBody, hk, hr, hd]
  rfl

theorem writeDpBody_unknown (v : Word32) (o : WriteOpts) (hr : resolveDp k false r = none) :
    writeDpBody r v o s = (s, ⟨.skip .unknownRegister, none, true⟩) := by
  simp only [writeDpBody, hk, hr]
  rfl

theorem writeDpBody_readOnly (v : Word32) (o : WriteOpts) (hr : resolveDp k false r = some n)
    (hd : dpWritable n = false) :
    writeDpBody r v o s = (s, ⟨.skip .writeToReadOnly, none, true⟩) := by
  simp only [writeDpBody, hk, hr, hd]
  rfl

end

section

variable {s t : State} {r : DpRef} {q : Response} (hf : s.fatal = none)

include hf

theorem readDpPart_run (o : ReadOpts) (hn : 0 < o.attempts) : readDpPart r o s = readDpBody r o s :=
  checkAdmission_run _ _ s hf (by simpa using hn.ne)

theorem writeDpPart_run (v : Word32) (o : WriteOpts) (hn : 0 < o.attempts) :
    writeDpPart r v o s = writeDpBody r v o s :=
  checkAdmission_run _ _ s hf (by simpa using hn.ne)

theorem exec_readDp {o : ReadOpts} (hn : 0 < o.attempts) (h : readDpBody r o s = (t, q)) :
    exec (.readDp r o) s = .next (t.answered q) := by
  have hexec : exec (.readDp r o) s = command (readDpPart r o) s := rfl
  rw [hexec, command_eq, readDpPart_run hf o hn, h]

theorem exec_writeDp {v : Word32} {o : WriteOpts} (hn : 0 < o.attempts)
    (h : writeDpBody r v o s = (t, q)) : exec (.writeDp r v o) s = .next (t.answered q) := by
  have hexec : exec (.writeDp r v o) s = command (writeDpPart r v o) s := rfl
  rw [hexec, command_eq, writeDpPart_run hf v o hn, h]

end

/-- Settles O19: the four skips of R123, each of which leaves the state as it is. -/
theorem skippedCommands : Obligations.SkippedCommands := by
  refine fun s hf => ⟨fun r o hn hr => ?_, fun r v o hn hr => ?_, fun r o n hn hr hdir => ?_,
    fun r v o n hn hr hdir => ?_⟩
  · exact exec_readDp hf hn (readDpBody_unknown rfl o hr)
  · exact exec_writeDp hf hn (writeDpBody_unknown rfl v o hr)
  · have hwriteOnly : dpReadable s.active n = false := by
      rcases hdir with rfl | ⟨hk, rfl⟩
      · rfl
      · rw [hk]
        rfl
    exact exec_readDp hf hn (readDpBody_writeOnly rfl o hr hwriteOnly)
  · have hreadOnly : dpWritable n = false := by
      rcases hdir with rfl | rfl | rfl <;> rfl
    exact exec_writeDp hf hn (writeDpBody_readOnly rfl v o hr hreadOnly)

/-! ### Reads -/

/-- The SELECT write before a SWD access to a DP register, if any: only the two registers at DP address
0x4 need a bank (R138). -/
def State.dpBankWriteFor (s : State) : DpName → Option Word32
  | .ctrlStat => dpBankWrite s.dpSwd.currentSelect 0#32
  | .wcr => dpBankWrite s.dpSwd.currentSelect 1#32
  | _ => none

/-- The state after a JTAG read of a DP register, and its response (R125 to R128). -/
def State.jtagReadEnd (s : State) (r : DpName) (n : Nat) (cmp : Cmp 32) : State × Response :=
  match r with
  | .idcode =>
    ({ s.after (jtagEvents s.cfg s.dpJtag.ir .idcode (.drScan32 0#32 cmp) n) n with
        dpJtag := { s.dpJtag with ir := some (irValue .idcode) } },
      okRead ((s.captureAt (n - 1)).setWidth 32) (matchCmp ((s.captureAt (n - 1)).setWidth 32) cmp))
  | .rdbuff => (s.jtagRdbuff n cmp, jtagAnswer s.cfg (s.captureAt (n - 1)) cmp)
  | _ => (s.jtagRead2 (dpAddr2 r) n cmp, jtagAnswer s.cfg (s.captureAt (1 + (n - 1))) cmp)

/-- The state after a SWD read of a DP register, and its response (R125 to R130). -/
def State.swdReadEnd (s : State) (r : DpName) (n : Nat) (cmp : Cmp 32) : State × Response :=
  (s.swdDpRead (s.dpBankWriteFor r) (dpAddr2 r) n cmp, s.swdAnswer (s.dpBankWriteFor r) n cmp)

/-- The state after a read of a DP register, and its response, by the transport. -/
def State.dpReadEnd (s : State) : Transport → DpName → Nat → Cmp 32 → State × Response
  | .jtag => s.jtagReadEnd
  | .swd => s.swdReadEnd

/-- A DP read up to its response, on either transport. -/
theorem dpRead_eq {s : State} {k : Transport} (hk : s.active = k) (r : DpName) (n : Nat) (cmp : Cmp 32)
    (hn : 0 < n) :
    ((dpRead r n cmp s).1, okRead (dpRead r n cmp s).2.data (dpRead r n cmp s).2.matched) =
      s.dpReadEnd k r n cmp := by
  cases k with
  | jtag =>
    simp only [dpRead, hk, State.dpReadEnd]
    cases r with
    | idcode => simp only [State.jtagReadEnd, jtagIdcode_eq n cmp s hn]
    | rdbuff => simp only [State.jtagReadEnd, jtagRdbuff_eq n cmp s hn, jtagAnswer]
    | _ => simp only [State.jtagReadEnd, jtagDpRead2_eq _ n cmp s hn, jtagAnswer]
  | swd =>
    simp only [dpRead, hk]
    cases r with
    | ctrlStat => exact Prod.ext_iff.mpr (swdDpRead_eq 0#32 0b01#2 n cmp s hn hk (.inl rfl))
    | wcr => exact Prod.ext_iff.mpr (swdDpRead_eq 1#32 0b01#2 n cmp s hn hk (.inr rfl))
    | _ => exact Prod.ext_iff.mpr (swdDpRead_plain _ n cmp s hn)

section

variable {s : State} {k : Transport} {r : DpRef} {n : DpName} {o : ReadOpts}

theorem readDpBody_run (hk : s.active = k) (hn : 0 < o.attempts) (hr : resolveDp k true r = some n)
    (hd : dpReadable k n = true) : readDpBody r o s = s.dpReadEnd k n o.attempts (readCmp o) := by
  simp only [readDpBody, hk, hr, hd, if_true]
  exact dpRead_eq hk n o.attempts (readCmp o) hn

/-- A read of a readable register ends as `State.dpReadEnd` says, under the compare of R124. -/
theorem exec_readDp_run {c : Cmp 32} (hf : s.fatal = none) (hn : 0 < o.attempts) (hc : c = readCmp o)
    (hk : s.active = k) (hr : resolveDp s.active true r = some n) (hd : dpReadable k n = true) :
    exec (.readDp r o) s = .next
      ((s.dpReadEnd k n o.attempts c).1.answered (s.dpReadEnd k n o.attempts c).2) := by
  subst hc
  exact exec_readDp hf hn (readDpBody_run hk hn (hk ▸ hr) hd)

end

/-- Settles O21: on SWD address 0x0 needs no bank. -/
theorem readDpIdcode : Obligations.ReadDpIdcode := fun _ _ _ _ hf hn hc hr =>
  ⟨fun hk => exec_readDp_run hf hn hc hk hr rfl, fun hk => exec_readDp_run hf hn hc hk hr rfl⟩

/-- Settles O22: CTRL/STAT is read in two phases on JTAG, and in DP bank 0 on SWD. -/
theorem readDpCtrlStat : Obligations.ReadDpCtrlStat := fun _ _ _ _ hf hn hc hr =>
  ⟨fun hk => exec_readDp_run hf hn hc hk hr rfl, fun hk => exec_readDp_run hf hn hc hk hr rfl⟩

/-- Settles O23: SELECT is readable on JTAG only (R121). -/
theorem readDpSelect : Obligations.ReadDpSelect := fun _ _ o _ hf hn hc hr =>
  ⟨fun hk => exec_readDp_run hf hn hc hk hr rfl,
    fun hk => exec_readDp hf hn (readDpBody_writeOnly hk o (hk ▸ hr) rfl)⟩

/-- Settles O24: RDBUFF is read by its own scan or packet, in one phase. -/
theorem readDpRdbuff : Obligations.ReadDpRdbuff := fun _ _ _ _ hf hn hc hr =>
  ⟨fun hk => exec_readDp_run hf hn hc hk hr rfl, fun hk => exec_readDp_run hf hn hc hk hr rfl⟩

/-- Settles O25: WCR is a register of SWD only (R121), in DP bank 1. -/
theorem readDpWcr : Obligations.ReadDpWcr := fun _ o _ hf hn hc =>
  ⟨fun hk => exec_readDp hf hn (readDpBody_unknown hk o rfl),
    fun hk => exec_readDp_run (n := .wcr) hf hn hc hk (hk ▸ rfl) rfl⟩

/-- Settles O26: RESEND is a register of SWD only (R121), at the unbanked address 0x8. -/
theorem readDpResend : Obligations.ReadDpResend := fun _ _ o _ hf hn hc =>
  ⟨fun hk => exec_readDp hf hn (readDpBody_unknown hk o rfl),
    fun hk hr => exec_readDp_run hf hn hc hk (hk ▸ hr) rfl⟩

/-! ### Writes -/

theorem writeAbort_jtag (v : Word32) (n : Nat) (s : State) (hk : s.active = .jtag) (hn : 0 < n) :
    writeAbort v n s = s.jtagWritten .abort 0b00#2 v n := by
  simp only [writeAbort, hk]
  exact jtagAccess_plain _ _ _ _ _ s hn

theorem writeAbort_swd (v : Word32) (n : Nat) (s : State) (hk : s.active = .swd) (hn : 0 < n) :
    writeAbort v n s = s.swdDpWritten none 0b00#2 v n := by
  simp only [writeAbort, hk]
  exact swdDpWritten_plain _ v n s hn

theorem writeCtrlStat_jtag (v : Word32) (n : Nat) (s : State) (hk : s.active = .jtag) (hn : 0 < n) :
    writeCtrlStat v n s = (s.jtagWritten .dpacc 0b01#2 v n).setOrun .jtag (v.getLsbD 0) := by
  simp only [writeCtrlStat, hk, dpAccess_jtag _ _ _ _ _ s hk, jtagAccess_plain _ _ _ _ _ s hn]
  rfl

theorem writeCtrlStat_swd (v : Word32) (n : Nat) (s : State) (hk : s.active = .swd) (hn : 0 < n) :
    writeCtrlStat v n s =
      (s.swdDpWritten (dpBankWrite s.dpSwd.currentSelect 0#32) 0b01#2 v n).setOrun .swd
        (v.getLsbD 0) := by
  have hbank : (selectDpBank 0#32 s).active = .swd := (selectDpBank_moves 0#32 s).kept.active.trans hk
  simp only [writeCtrlStat, hk, dpAccess_swd _ _ _ _ _ _ hbank,
    swdDpWritten_eq 0#32 _ v n s hn hk (.inl rfl), orunBit]

theorem writeWcr_swd (v : Word32) (n : Nat) (s : State) (hk : s.active = .swd) (hn : 0 < n) :
    writeWcr v n s = s.swdDpWritten (dpBankWrite s.dpSwd.currentSelect 1#32) 0b01#2 v n :=
  swdDpWritten_eq 1#32 _ v n s hn hk (.inr rfl)

/-- A write of a writable register answers OK after `dpWrite`. -/
theorem exec_writeDp_run {s t : State} {r : DpRef} {n : DpName} {v : Word32} {o : WriteOpts}
    (hf : s.fatal = none) (hn : 0 < o.attempts) (hr : resolveDp s.active false r = some n)
    (hd : dpWritable n = true) (ht : dpWrite n v o.attempts s = t) :
    exec (.writeDp r v o) s = .next (t.answered ⟨.ok, none, true⟩) := by
  have hbody : writeDpBody r v o s = (t, okDone) := by
    simp only [writeDpBody, hr, hd, if_true, ht]
  exact exec_writeDp hf hn hbody

/-- Settles O27: the write is `writeSelect`, which no cache keeps from being issued. -/
theorem writeDpSelect : Obligations.WriteDpSelect := by
  intro s r v o hf hn hr
  refine ⟨fun hk => ?_, fun hk => ?_⟩
  · exact exec_writeDp_run hf hn hr rfl (writeSelect_jtag v o.attempts s hk hn)
  · refine exec_writeDp_run hf hn hr rfl ((writeSelect_swd v o.attempts s hk hn).trans ?_)
    simp [State.swdDpWritten, selectSwd, selectGets, State.after]

/-- Settles O28: no cache follows an ABORT. -/
theorem writeDpAbort : Obligations.WriteDpAbort := fun s _ v o hf hn hr =>
  ⟨fun hk => exec_writeDp_run hf hn hr rfl (writeAbort_jtag v o.attempts s hk hn),
    fun hk => exec_writeDp_run hf hn hr rfl (writeAbort_swd v o.attempts s hk hn)⟩

/-- Settles O29: `orun_detect` of the active Debug Port follows the write. -/
theorem writeDpCtrlStat : Obligations.WriteDpCtrlStat := fun s _ v o hf hn hr =>
  ⟨fun hk => exec_writeDp_run hf hn hr rfl (writeCtrlStat_jtag v o.attempts s hk hn),
    fun hk => exec_writeDp_run hf hn hr rfl (writeCtrlStat_swd v o.attempts s hk hn)⟩

/-- Settles O30: WCR is a register of SWD only (R121), in DP bank 1. -/
theorem writeDpWcr : Obligations.WriteDpWcr := fun s v o hf hn =>
  ⟨fun hk => exec_writeDp hf hn (writeDpBody_unknown hk v o rfl),
    fun hk => exec_writeDp_run (n := .wcr) hf hn (hk ▸ rfl) rfl (writeWcr_swd v o.attempts s hk hn)⟩

/-! ### The composition -/

theorem State.dpReadEnd_answered (s : State) (q : Response) (k : Transport) (r : DpName) (n : Nat)
    (cmp : Cmp 32) : (s.answered q).dpReadEnd k r n cmp =
      ((s.dpReadEnd k r n cmp).1.answered q, (s.dpReadEnd k r n cmp).2) := by
  cases k with
  | jtag => cases r <;> rfl
  | swd => cases r <;> rfl

/-- A read does not see that a command was answered before it. -/
theorem readDpBody_answered (s : State) (q : Response) (r : DpRef) (o : ReadOpts)
    (hn : 0 < o.attempts) :
    readDpBody r o (s.answered q) = ((readDpBody r o s).1.answered q, (readDpBody r o s).2) := by
  have hk : (s.answered q).active = s.active := rfl
  cases hr : resolveDp s.active true r with
  | none => rw [readDpBody_unknown rfl o hr, readDpBody_unknown hk o hr]
  | some n =>
    cases hd : dpReadable s.active n with
    | false => rw [readDpBody_writeOnly rfl o hr hd, readDpBody_writeOnly hk o hr hd]
    | true =>
      rw [readDpBody_run rfl hn hr hd, readDpBody_run hk hn hr hd, State.dpReadEnd_answered]

/-- The options of the read part of `write_read_dp`: the written value is the default expectation (R139). -/
def WROpts.readPart (o : WROpts) (v : Word32) : ReadOpts :=
  { attempts := o.rAttempts, exp := some (o.exp.getD v), mask := o.mask }

/-- R139: both parts run, the read after the write without an answer between them. -/
theorem exec_writeReadDp {s : State} {r : DpRef} {v : Word32} {o : WROpts} {w x : State × Response}
    (hf : s.fatal = none) (hwn : 0 < o.wAttempts) (hrn : 0 < o.rAttempts)
    (hw : writeDpBody r v { attempts := o.wAttempts } s = w) (hwf : w.1.fatal = none)
    (hx : readDpBody r (WROpts.readPart o v) w.1 = x) :
    exec (.writeReadDp r v o) s = .next (x.1.answered (composeResponse w.2 x.2)) := by
  have hwrite : writeDpPart r v { attempts := o.wAttempts } s = w :=
    (writeDpPart_run hf v { attempts := o.wAttempts } hwn).trans hw
  have hread : readDpPart r (WROpts.readPart o v) w.1 = x :=
    (readDpPart_run hwf (WROpts.readPart o v) hrn).trans hx
  have hbody : writeReadDpBody r v o s = (x.1, composeResponse w.2 x.2) := by
    rw [← hread, ← hwrite]
    rfl
  have hexec : exec (.writeReadDp r v o) s =
      command (checkAdmission [o.wAttempts, o.rAttempts] (writeReadDpBody r v o)) s := rfl
  have hcounts : 0 ∉ [o.wAttempts, o.rAttempts] := by simp [hwn.ne, hrn.ne]
  rw [hexec, command_eq, checkAdmission_run _ _ s hf hcounts, hbody]

/-- Settles O31: the read part is the same after the write part's answer as without it, and neither part
counts or answers itself. -/
theorem writeReadDpComposes : Obligations.WriteReadDpComposes := by
  intro s r v o hf hwn hrn
  obtain ⟨w, hw⟩ : ∃ w, writeDpBody r v { attempts := o.wAttempts } s = w := ⟨_, rfl⟩
  obtain ⟨x, hx⟩ : ∃ x, readDpBody r (WROpts.readPart o v) w.1 = x := ⟨_, rfl⟩
  have hkw : s.Kept w.1 := hw ▸ (writeDpBody_moves r v { attempts := o.wAttempts } s hwn).kept
  have hkx : w.1.Kept x.1 := hx ▸ (readDpBody_moves r (WROpts.readPart o v) w.1 hrn).kept
  have hwf : w.1.fatal = none := hkw.fatal.trans hf
  have hread : readDpBody r (WROpts.readPart o v) (w.1.answered w.2) = (x.1.answered w.2, x.2) := by
    rw [readDpBody_answered w.1 w.2 r (WROpts.readPart o v) hrn, hx]
  refine ⟨w.1.answered w.2, (x.1.answered w.2).answered x.2, w.2, x.2, exec_writeDp hf hwn hw,
    congrArg (· ++ [w.2]) hkw.responses, exec_readDp (s := w.1.answered w.2) hwf hrn hread,
    congrArg (· ++ [w.2] ++ [x.2]) hkx.responses, ?_⟩
  rw [exec_writeReadDp hf hwn hrn hw hwf hx, ← hkw.pc, ← hkx.pc, ← hkw.responses, ← hkx.responses]
  rfl

end Sys2Proof.Machine

/-! The AP register engine: `read_ap`, `write_ap` and `set_ap_select` as the states they answer, when an AP
access writes SELECT, and what a raw access does to the MEM-AP caches (R161 to R169). -/

namespace Sys2Proof.Machine

/-! ### Wait states (R168) -/

theorem memOffset_iff (off : BitVec 8) :
    memOffset off = true ↔ off ∈ [0x0C#8, 0x10#8, 0x14#8, 0x18#8, 0x1C#8] := by
  simp [memOffset, or_assoc]

theorem apWait_unowned {cfg : Params} {a : Word32} (ho : ownerOf cfg a = none) : apWait cfg a = 0 := by
  simp only [apWait, ho]

theorem apWait_owned {cfg : Params} {a : Word32} {i : Nat} {ap : ApConfig}
    (ho : ownerOf cfg a = some (i, ap)) :
    apWait cfg a = ap.apregAccessWait +
      (if ap.cls = .memAp ∧ memOffset (apOffset a) = true then ap.apmemAccessWait else 0) := by
  simp only [apWait, ho]

/-- Settles O13: the listed offsets are those of `memOffset`. -/
theorem apWaitStates : Obligations.ApWaitStates := fun cfg a =>
  ⟨apWait_unowned, fun i ap ho => by simp only [apWait_owned ho, memOffset_iff, apOffset]⟩

/-! ### Coherence of the MEM-AP caches (R169) -/

theorem rawCoherence_unowned {a : Word32} {v : Option Word32} {s : State} (ho : ownerOf s.cfg a = none) :
    rawCoherence a v s = s := by
  simp only [rawCoherence, ho]

section

variable {a : Word32} {v : Option Word32} {s : State} {i : Nat} {ap : ApConfig}
  (ho : ownerOf s.cfg a = some (i, ap))

include ho

theorem rawCoherence_notMemAp (hcls : ap.cls ≠ .memAp) : rawCoherence a v s = s := by
  simp only [rawCoherence, ho, hcls, if_false]

variable (hcls : ap.cls = .memAp)

include hcls

theorem rawCoherence_memOffset (hm : memOffset (apOffset a) = true) :
    rawCoherence a v s = s.setTar i none := by
  simp only [rawCoherence, ho, hcls, hm, if_true]

theorem rawCoherence_csw (x : Word32) (hoff : apOffset a = 0x00#8) :
    rawCoherence a (some x) s = s.setCsw i x := by
  have hm : memOffset 0x00#8 = false := rfl
  simp only [rawCoherence, ho, hcls, hoff, hm, Bool.false_eq_true, if_true, if_false]

theorem rawCoherence_tar (x : Word32) (hoff : apOffset a = 0x04#8) :
    rawCoherence a (some x) s = s.setTar i (some x) := by
  have hm : memOffset 0x04#8 = false := rfl
  have hcsw : ¬0x04#8 = 0x00#8 := by decide
  simp only [rawCoherence, ho, hcls, hoff, hm, hcsw, Bool.false_eq_true, if_true, if_false]

theorem rawCoherence_other (hm : memOffset (apOffset a) = false)
    (hv : v = none ∨ apOffset a ∉ [0x00#8, 0x04#8]) : rawCoherence a v s = s := by
  cases v with
  | none => simp only [rawCoherence, ho, hcls, hm, Bool.false_eq_true, if_true, if_false]
  | some x =>
    have hoff : apOffset a ∉ [0x00#8, 0x04#8] := hv.resolve_left nofun
    obtain ⟨hcsw, htar⟩ : apOffset a ≠ 0x00#8 ∧ apOffset a ≠ 0x04#8 := by simpa using hoff
    simp only [rawCoherence, ho, hcls, hm, Bool.false_eq_true, if_true, if_false, hcsw, htar]

end

/-- Settles O36, one case of R169 for each kind of offset; the obligation's own name is that of the
function. -/
theorem rawCoherence_cases : Obligations.RawCoherence := by
  refine fun a v s => ⟨rawCoherence_unowned, fun i ap ho => ⟨rawCoherence_notMemAp ho, fun hcls =>
    ⟨?_, ?_, ?_, ?_⟩⟩⟩
  · rintro x rfl hoff
    exact rawCoherence_csw ho hcls x hoff
  · rintro x rfl hoff
    exact rawCoherence_tar ho hcls x hoff
  · exact fun hm => rawCoherence_memOffset ho hcls ((memOffset_iff _).mpr hm)
  · exact fun hm hv => rawCoherence_other ho hcls
      (Bool.eq_false_iff.mpr fun h => hm ((memOffset_iff _).mp h)) hv

/-! ### The commands (R163, R165, R167) -/

/-- A command that is admitted answers what its body does (R292, R311). -/
theorem command_run {counts : List Nat} {body : State → State × Response} {s t : State} {q : Response}
    (hf : s.fatal = none) (hc : 0 ∉ counts) (h : body s = (t, q)) :
    command (checkAdmission counts body) s = .next (t.answered q) := by
  rw [command_eq, checkAdmission_run counts body s hf hc, h]

section

variable {s t : State} {a : Option Word32} {q : Response} (hf : s.fatal = none)

include hf

theorem exec_readAp {o : ReadOpts} (hn : 0 < o.attempts) (h : readApBody a o s = (t, q)) :
    exec (.readAp a o) s = .next (t.answered q) :=
  command_run (body := readApBody a o) hf (by simpa using hn.ne) h

theorem exec_writeAp {v : Word32} {o : WriteOpts} (hn : 0 < o.attempts)
    (h : writeApBody a v o s = (t, q)) : exec (.writeAp a v o) s = .next (t.answered q) :=
  command_run (body := writeApBody a v o) hf (by simpa using hn.ne) h

theorem exec_setApSelect (h : setApSelectBody a s = (t, q)) :
    exec (.setApSelect a) s = .next (t.answered q) :=
  command_run (body := setApSelectBody a) hf List.not_mem_nil h

end

section

variable {s : State} (hf : s.fatal = none) (a : Word32)

include hf

theorem exec_readAp_run {o : ReadOpts} (hn : 0 < o.attempts) :
    exec (.readAp (some a) o) s =
      .next ((rawCoherence a none (s.apRead a o.attempts (readCmp o))).answered
        (okRead (s.apReadResult a o.attempts (readCmp o)).data
          (s.apReadResult a o.attempts (readCmp o)).matched)) := by
  refine exec_readAp hf hn ?_
  simp only [readApBody, readApCore_eq a o.attempts (readCmp o) s hn]

theorem exec_writeAp_run (v : Word32) {o : WriteOpts} (hn : 0 < o.attempts) :
    exec (.writeAp (some a) v o) s =
      .next ((rawCoherence a (some v) (s.apWritten a v o.attempts)).answered ⟨.ok, none, true⟩) := by
  refine exec_writeAp hf hn ?_
  simp only [writeApBody, writeApCore_eq a v o.attempts s hn, okDone]

theorem exec_setApSelect_run :
    exec (.setApSelect (some a)) s = .next ((s.apSelected a).answered ⟨.ok, none, true⟩) := by
  refine exec_setApSelect hf ?_
  simp only [setApSelectBody, selectForAp_eq, okDone]

end

/-- Where the cache agrees in the key bits, `SelectForAP` leaves the state (R161). -/
theorem State.apSelected_of_apSelect_eq_none {s : State} {a : Word32} (h : s.apSelect a = none) :
    s.apSelected a = s := by
  rw [← selectForAp_eq, selectForAp_cases, h]

/-- Settles O33: an operand without an address raises before anything is sent; with one, the reads are
`readApCore` under the compare of R124. -/
theorem readAp : Obligations.ReadAp := by
  rintro s o c hf hn rfl
  exact ⟨exec_readAp hf hn rfl, fun a => exec_readAp_run hf a hn⟩

/-- Settles O34: as for reads, with `writeApCore`. -/
theorem writeAp : Obligations.WriteAp := fun _ v _ hf hn =>
  ⟨exec_writeAp hf hn rfl, fun a => exec_writeAp_run hf a v hn⟩

/-- Settles O35: on a hit `SelectForAP` leaves the state, and the command still answers. -/
theorem setApSelect : Obligations.SetApSelect := by
  refine fun s a hf => ⟨exec_setApSelect hf rfl, exec_setApSelect_run hf a, fun hhit => ?_⟩
  rw [exec_setApSelect_run hf a, State.apSelected_of_apSelect_eq_none hhit]

/-! ### When SELECT is written (R161) -/

/-- The key bits of R161 cover every bit of a SELECT value (R160). -/
theorem selValue_and_selKey (a : Word32) (k : Transport) :
    a &&& 0xFF0000F0#32 &&& selKey k = a &&& 0xFF0000F0#32 := by
  cases k <;> (rw [BitVec.and_assoc]; rfl)

/-- After the SELECT write that an AP access needs, or where it needs none, an access with the same SELECT
value needs none. -/
theorem apSelectWrite_selectAfter (k : Transport) (cache : Option Word32) {a b : Word32}
    (hab : a &&& 0xFF0000F0#32 = b &&& 0xFF0000F0#32) :
    apSelectWrite k (selectAfter cache (apSelectWrite k cache a)) b = none := by
  have hwritten : apSelectWrite k (some (a &&& 0xFF0000F0#32)) b = none := by
    simp [apSelectWrite, hab]
  cases cache with
  | none => exact hwritten
  | some c =>
    by_cases hkey : c &&& selKey k = a &&& 0xFF0000F0#32 &&& selKey k
    · simp [apSelectWrite, selectAfter, hkey, hab]
    · simpa [apSelectWrite, selectAfter, hkey] using hwritten

/-- `t` follows the SELECT write, if any, that an AP access at `a` starts with in `s`: the same transport,
with the SELECT cache after that write. -/
def State.SelectedFor (s : State) (a : Word32) (t : State) : Prop :=
  t.active = s.active ∧
    (t.dp s.active).currentSelect = selectAfter (s.dp s.active).currentSelect (s.apSelect a)

theorem State.SelectedFor.apSelect_eq_none {s t : State} {a b : Word32} (h : s.SelectedFor a t)
    (hab : a &&& 0xFF0000F0#32 = b &&& 0xFF0000F0#32) : t.apSelect b = none := by
  obtain ⟨hactive, hselect⟩ := h
  rw [State.apSelect, hactive, hselect]
  exact apSelectWrite_selectAfter _ _ hab

theorem State.selectedFor_apSelected (s : State) (a : Word32) : s.SelectedFor a (s.apSelected a) := by
  refine ⟨State.apSelected_active s a, ?_⟩
  cases hk : s.active <;> simp [State.apSelected, hk]

theorem State.selectedFor_apRead (s : State) (a : Word32) (n : Nat) (cmp : Cmp 32) :
    s.SelectedFor a (s.apRead a n cmp) := by
  refine ⟨State.apRead_active s a n cmp, ?_⟩
  cases hk : s.active <;> simp [State.apRead, hk]

theorem State.selectedFor_apWritten (s : State) (a v : Word32) (n : Nat) :
    s.SelectedFor a (s.apWritten a v n) := by
  refine ⟨State.apWritten_active s a v n, ?_⟩
  cases hk : s.active <;> simp [State.apWritten, hk]

/-- R169 changes neither the transport nor its caches. -/
theorem State.SelectedFor.rawCoherence {s t : State} {a : Word32} (h : s.SelectedFor a t) (x : Word32)
    (v : Option Word32) : s.SelectedFor a (rawCoherence x v t) := by
  obtain ⟨hactive, hselect⟩ := h
  obtain ⟨hjtag, hswd, -⟩ := rawCoherence_dp x v t
  have hdp : (Machine.rawCoherence x v t).dp s.active = t.dp s.active := by
    cases s.active
    · exact hjtag
    · exact hswd
  exact ⟨(rawCoherence_moves x v t).kept.active.trans hactive, hdp ▸ hselect⟩

theorem State.SelectedFor.answered {s t : State} {a : Word32} (h : s.SelectedFor a t) (q : Response) :
    s.SelectedFor a (t.answered q) := h

section

variable {s : State} (a : Word32)

theorem State.apSelect_of_unknown (h : (s.dp s.active).currentSelect = none) :
    s.apSelect a = some (a &&& 0xFF0000F0#32) := by
  simp only [State.apSelect, h, apSelectWrite]

theorem State.apSelect_of_known {c : Word32} (h : (s.dp s.active).currentSelect = some c) :
    s.apSelect a =
      if c &&& selKey s.active ≠ a &&& 0xFF0000F0#32 then some (a &&& 0xFF0000F0#32) else none := by
  simp only [State.apSelect, h, apSelectWrite, selValue_and_selKey]

end

theorem selKey_eq (k : Transport) :
    selKey k = if k = .jtag then 0xFF0000F0#32 else 0xFF0000F1#32 := by
  cases k <;> rfl

/-- Settles O32: each of the three commands leaves the SELECT cache as after the write at `a`. -/
theorem selectWrittenOnce : Obligations.SelectWrittenOnce := by
  refine fun s a b => ⟨?_, fun hab hf => ⟨fun t ht => ?_, fun o t hn ht => ?_,
    fun v o t hn ht => ?_⟩⟩
  · cases hcache : (s.dp s.active).currentSelect with
    | none => exact State.apSelect_of_unknown a hcache
    | some c => exact selKey_eq s.active ▸ State.apSelect_of_known a hcache
  · rw [exec_setApSelect_run hf a] at ht
    cases ht
    exact ((s.selectedFor_apSelected a).answered _).apSelect_eq_none hab
  · rw [exec_readAp_run hf a hn] at ht
    cases ht
    exact (((s.selectedFor_apRead a _ _).rawCoherence a none).answered _).apSelect_eq_none hab
  · rw [exec_writeAp_run hf a v hn] at ht
    cases ht
    exact (((s.selectedFor_apWritten a v _).rawCoherence a (some v)).answered _).apSelect_eq_none hab

end Sys2Proof.Machine

/-! What a command emits on JTAG: each move of a command is idle clocks, one whole access, or nothing, and a
chain of them is a sequence of those (R180, R181, R185, R191). -/

namespace Sys2Proof.Machine

/-! ### Traffic from one IR cache to the next -/

/-- The events `es` are whole accesses and idle clocks that lead from the IR cache `ir` to the IR cache
`ir'`: traffic that starts under `ir'` may follow them. `JtagTraffic` itself does not say which IR cache it
ends under, and so does not compose. -/
def JtagLeads (cfg : Params) (ir : Option Word4) (es : List TransportEvent) (ir' : Option Word4) : Prop :=
  ∀ fs, JtagTraffic cfg ir' fs → JtagTraffic cfg ir (es ++ fs)

section

variable {cfg : Params} {ir ir' ir'' : Option Word4} {es fs : List TransportEvent}

theorem JtagLeads.traffic (h : JtagLeads cfg ir es ir') : JtagTraffic cfg ir es :=
  List.append_nil es ▸ h [] (.done ir')

theorem jtagLeads_nil : JtagLeads cfg ir [] ir := fun _ h => h

theorem JtagLeads.append (h : JtagLeads cfg ir es ir') (g : JtagLeads cfg ir' fs ir'') :
    JtagLeads cfg ir (es ++ fs) ir'' := fun gs hgs =>
  List.append_assoc es fs gs ▸ h _ (g gs hgs)

theorem jtagLeads_idleEvents (n : Nat) : JtagLeads cfg ir (idleEvents n) ir := by
  unfold idleEvents
  split
  · exact jtagLeads_nil
  · exact fun fs => .idle ir n fs

/-- One access leaves its own class in force (R181, R187). -/
theorem jtagLeads_jtagEvents {c : IrCode} {scan : TransportEvent} {n : Nat}
    (hscan : scanUnder c scan = true) (hn : 0 < n) :
    JtagLeads cfg ir (jtagEvents cfg ir c scan n) (some (irValue c)) :=
  fun fs => .access ir c scan n fs hscan hn

end

/-! ### What the moves of a command send -/

/-- What is appended to the trace from `s` to `t` leads from the IR cache of `s` to that of `t`. -/
def State.JtagSent (s t : State) : Prop :=
  ∃ es, t.trace = s.trace ++ es ∧ JtagLeads s.cfg s.dpJtag.ir es t.dpJtag.ir

/-- A change of state that neither sends an event nor touches the IR cache. -/
theorem State.jtagSent_of_silent {s t : State} (htrace : t.trace = s.trace)
    (hir : t.dpJtag.ir = s.dpJtag.ir) : s.JtagSent t :=
  ⟨[], by rw [htrace, List.append_nil], hir ▸ jtagLeads_nil⟩

theorem State.JtagSent.trans {s t u : State} (h : s.JtagSent t) (g : t.JtagSent u)
    (hcfg : t.cfg = s.cfg) : s.JtagSent u := by
  obtain ⟨es, hes, hlead⟩ := h
  obtain ⟨fs, hfs, hnext⟩ := g
  exact ⟨es ++ fs, by rw [hfs, hes, List.append_assoc], hlead.append (hcfg ▸ hnext)⟩

/-- On JTAG a move sends one whole access, idle clocks, or nothing. -/
theorem Move.jtagSent {s t : State} (h : Move s t) (hs : s.active = .jtag) : s.JtagSent t := by
  cases h with
  | jtag c scan n ack _ hscan hn _ => exact ⟨_, rfl, jtagLeads_jtagEvents hscan hn⟩
  | jtagSelect v n _ hn => exact ⟨_, rfl, jtagLeads_jtagEvents rfl hn⟩
  | swdRead _ _ _ _ _ hswd => cases hs.symm.trans hswd
  | swdWrite _ _ _ _ _ hswd => cases hs.symm.trans hswd
  | swdSelect _ _ _ hswd => cases hs.symm.trans hswd
  | idle n => exact ⟨_, rfl, jtagLeads_idleEvents n⟩
  | orun k b => cases k <;> exact State.jtagSent_of_silent rfl rfl
  | mem => exact State.jtagSent_of_silent rfl rfl

theorem Moves.jtagSent {s t : State} (h : Moves s t) (hs : s.active = .jtag) : s.JtagSent t := by
  induction h with
  | refl => exact State.jtagSent_of_silent rfl rfl
  | tail hm m ih => exact ih.trans (m.jtagSent (hm.kept.active.trans hs)) hm.kept.cfg

/-! ### Whole commands -/

/-- R280, R281: the session commands send nothing. -/
theorem setDpBody_trace (k : Transport) (s : State) (hk : s.cfg.has k = true) :
    (setDpBody k s).1.trace = s.trace := by
  rw [setDpBody_eq k s hk]
  cases k <;> rfl

theorem resetDpBody_trace (s : State) : (resetDpBody s).1.trace = s.trace := by
  rw [resetDpBody_eq]
  split <;> rfl

/-- A command sends what its moves send; a fatal error and a session command send nothing, whatever they
leave in the IR cache. -/
theorem Ending.jtagTraffic {i : Instr} {s : State} {p : State × Response} (h : Ending i s p)
    (hs : s.active = .jtag) :
    ∃ es, p.1.trace = s.trace ++ es ∧ JtagTraffic s.cfg s.dpJtag.ir es := by
  have silent {t : State} (ht : t.trace = s.trace) :
      ∃ es, t.trace = s.trace ++ es ∧ JtagTraffic s.cfg s.dpJtag.ir es :=
    ⟨[], by rw [ht, List.append_nil], .done _⟩
  cases h with
  | moved t r hm =>
    obtain ⟨es, hes, hlead⟩ := hm.jtagSent hs
    exact ⟨es, hes, hlead.traffic⟩
  | fatal c => exact silent rfl
  | setDp k _ hk => exact silent (setDpBody_trace k s hk)
  | resetDp => exact silent (resetDpBody_trace s)

/-- Settles O57: a command answers an ending of its own, and the response delivered is no event. -/
theorem jtagCommandTraffic : Obligations.JtagCommandTraffic := by
  intro i s t hi hs ht
  obtain ⟨p, rfl, he⟩ := command_inv i hi ht
  exact he.jtagTraffic hs

end Sys2Proof.Machine

/-! What an instruction emits on SWD: on that transport every frame is a chain of moves as every command is,
and each move sends whole packets, idle clocks, or nothing (R210, R214, R216, R219, R220). -/

namespace Sys2Proof.Machine

/-! ### Traffic -/

section

variable {cfg : Params} {es fs : List TransportEvent}

theorem SwdTraffic.append (h : SwdTraffic cfg es) (g : SwdTraffic cfg fs) :
    SwdTraffic cfg (es ++ fs) := by
  induction h with
  | done => exact g
  | idle n es _ ih => exact .idle n _ ih
  | read apndp a cmp es _ ih => exact List.append_assoc _ es fs ▸ .read apndp a cmp _ ih
  | write apndp a v es _ ih => exact List.append_assoc _ es fs ▸ .write apndp a v _ ih

theorem SwdTraffic.repeatEvents (h : SwdTraffic cfg es) (n : Nat) :
    SwdTraffic cfg (repeatEvents n es) := by
  induction n with
  | zero => exact .done
  | succ n ih => exact repeatEvents_succ n es ▸ h.append ih

theorem swdTraffic_idleEvents (n : Nat) : SwdTraffic cfg (idleEvents n) := by
  unfold idleEvents
  split
  · exact .done
  · exact .idle n [] .done

theorem swdTraffic_readPacket (apndp : Bool) (a : BitVec 2) (cmp : Cmp 32) :
    SwdTraffic cfg (readPacket cfg apndp a cmp) :=
  .read apndp a cmp [] .done

theorem swdTraffic_writePacket (apndp : Bool) (a : BitVec 2) (v : Word32) :
    SwdTraffic cfg (writePacket cfg apndp a v) :=
  .write apndp a v [] .done

end

/-! ### What the moves of an instruction send -/

/-- What is appended to the trace from `s` to `t` is whole packets and idle clocks. -/
def State.SwdSent (s t : State) : Prop :=
  ∃ es, t.trace = s.trace ++ es ∧ SwdTraffic s.cfg es

theorem State.swdSent_of_silent {s t : State} (htrace : t.trace = s.trace) : s.SwdSent t :=
  ⟨[], by rw [htrace, List.append_nil], .done⟩

theorem State.SwdSent.trans {s t u : State} (h : s.SwdSent t) (g : t.SwdSent u)
    (hcfg : t.cfg = s.cfg) : s.SwdSent u := by
  obtain ⟨es, hes, hsent⟩ := h
  obtain ⟨fs, hfs, hnext⟩ := g
  exact ⟨es ++ fs, by rw [hfs, hes, List.append_assoc], hsent.append (hcfg ▸ hnext)⟩

/-- On SWD a move sends one packet repeated, idle clocks, or nothing. -/
theorem Move.swdSent {s t : State} (h : Move s t) (hs : s.active = .swd) : s.SwdSent t := by
  cases h with
  | jtag _ _ _ _ hjtag => cases hs.symm.trans hjtag
  | jtagSelect _ _ hjtag => cases hs.symm.trans hjtag
  | swdRead apndp a cmp n => exact ⟨_, rfl, (swdTraffic_readPacket apndp a cmp).repeatEvents n⟩
  | swdWrite apndp a v n => exact ⟨_, rfl, (swdTraffic_writePacket apndp a v).repeatEvents n⟩
  | swdSelect v n => exact ⟨_, rfl, (swdTraffic_writePacket false 0b10#2 v).repeatEvents n⟩
  | idle n => exact ⟨_, rfl, swdTraffic_idleEvents n⟩
  | orun k b => cases k <;> exact State.swdSent_of_silent rfl
  | mem => exact State.swdSent_of_silent rfl

theorem Moves.swdSent {s t : State} (h : Moves s t) (hs : s.active = .swd) : s.SwdSent t := by
  induction h with
  | refl => exact State.swdSent_of_silent rfl
  | tail hm m ih => exact ih.trans (m.swdSent (hm.kept.active.trans hs)) hm.kept.cfg

/-! ### Commands and frames -/

/-- A command sends what its moves send; a fatal error and a session command send nothing. -/
theorem Ending.swdSent {i : Instr} {s : State} {p : State × Response} (h : Ending i s p)
    (hs : s.active = .swd) : s.SwdSent p.1 := by
  cases h with
  | moved t r hm => exact hm.swdSent hs
  | fatal c => exact State.swdSent_of_silent rfl
  | setDp k _ hk => exact State.swdSent_of_silent (setDpBody_trace k s hk)
  | resetDp => exact State.swdSent_of_silent (resetDpBody_trace s)

theorem swdDpFrame_moves (rnw : Bool) (a : BitVec 2) (v : Word32) (s : State) (hs : s.active = .swd) :
    Moves s (swdDpFrame rnw a v s) := by
  cases rnw with
  | false => exact swdDpWriteFrame_moves a v s hs
  | true => exact swdAccess_move false true a v 1 (noCmp 32) s hs Nat.one_pos (.inr (.inl rfl))

theorem swdApFrame_moves (rnw : Bool) (a : BitVec 2) (v : Word32) (s : State) (hs : s.active = .swd) :
    Moves s (swdApFrame rnw a v s) :=
  (swdAccess_move true rnw a v 1 (noCmp 32) s hs Nat.one_pos (.inl rfl)).trans
    (apFrameCoherence_moves _ _ _)

theorem wireFrame_moves {k : Transport} {body : State → State} {s t : State}
    (hbody : s.active = k → Moves s (body s)) (h : wireFrame k body s = .next t) : Moves s t := by
  rcases wireFrame_inv h with rfl | ⟨-, hk, rfl⟩
  · exact .refl _
  · exact hbody hk

/-- On SWD a frame of JTAG runs in the fatal state only, where it does nothing (R40), and a packet is moves
that commands make too: the other ends of `FrameEnding` are JTAG's. -/
theorem frame_moves_of_swd (i : Instr) (hi : ¬i.isCommand = true) {s t : State} (hs : s.active = .swd)
    (h : exec i s = .next t) : Moves s t := by
  have jtag {body : State → State} (h : wireFrame .jtag body s = .next t) : Moves s t :=
    wireFrame_moves (k := .jtag) (fun hk => nomatch hk.symm.trans hs) h
  rcases frame_cases i hi with ⟨c, rfl⟩ | ⟨d, a, r, rfl⟩ | ⟨d, k, rfl⟩ | rfl | ⟨p, a, rfl⟩ |
    ⟨p, a, v, rfl⟩
  · exact jtag (exec_irInstr c s ▸ h)
  · exact jtag h
  · exact jtag h
  · exact jtag h
  · refine wireFrame_moves (fun _ => ?_) (exec_swdReadInstr p a s ▸ h)
    cases p with
    | false => exact swdDpFrame_moves true a 0#32 s hs
    | true => exact swdApFrame_moves true a 0#32 s hs
  · refine wireFrame_moves (fun _ => ?_) (exec_swdWriteInstr p a v s ▸ h)
    cases p with
    | false => exact swdDpFrame_moves false a v s hs
    | true => exact swdApFrame_moves false a v s hs

/-- Settles O58: a command answers an ending of its own, whose response is no event; a frame is moves. -/
theorem swdPacketTraffic : Obligations.SwdPacketTraffic := by
  intro i s t hs ht
  by_cases hi : i.isCommand = true
  · obtain ⟨p, rfl, he⟩ := command_inv i hi ht
    exact he.swdSent hs
  · exact (frame_moves_of_swd i hi hs ht).swdSent hs

/-! ### Clocks (R221, R346, R347) -/

section

variable (cfg : Params)

@[simp] theorem totalClocks_append (es fs : List TransportEvent) :
    totalClocks cfg (es ++ fs) = totalClocks cfg es + totalClocks cfg fs := by
  induction es with
  | nil => simp [totalClocks]
  | cons e es ih => simp only [List.cons_append, totalClocks, ih, Nat.add_assoc]

@[simp] theorem totalClocks_replicate (n : Nat) (e : TransportEvent) :
    totalClocks cfg (List.replicate n e) = n * clocks cfg e := by
  induction n with
  | zero => simp [totalClocks]
  | succ n ih => simp only [List.replicate_succ, totalClocks, ih, Nat.succ_mul, Nat.add_comm]

@[simp] theorem totalClocks_idleEvents (n : Nat) : totalClocks cfg (idleEvents n) = n := by
  by_cases hn : n = 0 <;> simp [idleEvents, hn, totalClocks, clocks]

@[simp] theorem totalClocks_irEvents (ir : Option Word4) (c : IrCode) :
    totalClocks cfg (irEvents ir c) = if ir = some (irValue c) then 0 else 4 + cfg.jtagIrOverhead := by
  unfold irEvents
  split <;> rfl

theorem totalClocks_jtagEvents (ir : Option Word4) (c : IrCode) (scan : TransportEvent) (n : Nat) :
    totalClocks cfg (jtagEvents cfg ir c scan n) =
      (if ir = some (irValue c) then 0 else 4 + cfg.jtagIrOverhead) + n * clocks cfg scan +
        cfg.accAccessDly := by
  simp only [jtagEvents, totalClocks_append, totalClocks_irEvents, totalClocks_replicate,
    totalClocks_idleEvents]

/-- R221: request 8, turnaround 1, acknowledge 3, data 32, parity 1, turnaround 1, and the park. -/
theorem totalClocks_readPacket (apndp : Bool) (a : BitVec 2) (cmp : Cmp 32) :
    totalClocks cfg (readPacket cfg apndp a cmp) = 46 + cfg.swdParkCycles := by
  simp only [readPacket, totalClocks, clocks]
  omega

/-- R221: as for a read, the second turnaround before the data. -/
theorem totalClocks_writePacket (apndp : Bool) (a : BitVec 2) (v : Word32) :
    totalClocks cfg (writePacket cfg apndp a v) = 46 + cfg.swdParkCycles := by
  simp only [writePacket, totalClocks, clocks]
  omega

end

/-- Settles O59: both packets by R221, and the access as the sum of its three parts. -/
theorem clocksOfOneAccess : Obligations.ClocksOfOneAccess :=
  ⟨fun cfg apndp a cmp v =>
      ⟨totalClocks_readPacket cfg apndp a cmp, totalClocks_writePacket cfg apndp a v⟩,
    fun cfg ir c _ _ n => totalClocks_jtagEvents cfg ir c _ n⟩

end Sys2Proof.Machine

/-! Byte lanes (R244, R245), the TAR advance (R246, R247) and the SIZE field of CSW (R94, R241). -/

namespace Sys2Proof.Machine

/-! ### Byte lanes -/

/-- Masked data shifted into its lane and out of it again keeps the masked bits that the lane does not shift
out at the top. -/
theorem shiftLeft_ushiftRight_masked {n : Nat} (v m : BitVec n) (k : Nat) :
    (((v &&& m) <<< k) >>> k) &&& m = v &&& (m &&& BitVec.allOnes n >>> k) := by
  apply BitVec.eq_of_getLsbD_eq
  intro i hi
  by_cases hk : k + i < n <;> simp [hi, hk]

/-- What is left of a value after the round trip through its lane. -/
theorem getRData_getWData (w : Width) (a v : Word32) (hw : w ≠ .w32) :
    getRData w a (getWData w a v) = v &&& (wMask w &&& BitVec.allOnes 32 >>> laneShift a) := by
  cases w with
  | w8 => exact shiftLeft_ushiftRight_masked v _ _
  | w16 => exact shiftLeft_ushiftRight_masked v _ _
  | w32 => exact absurd rfl hw

/-- Every lane holds a byte. -/
theorem wMask_w8_inLane {k : Nat} (hk : k < 4) :
    wMask .w8 &&& BitVec.allOnes 32 >>> (8 * k) = 0xFF#32 := by
  interval_cases k <;> rfl

/-- Every lane but the last has room for a halfword. -/
theorem wMask_w16_inLane {k : Nat} (hk : k < 3) :
    wMask .w16 &&& BitVec.allOnes 32 >>> (8 * k) = 0xFFFF#32 := by
  interval_cases k <;> rfl

/-- The last lane has room for the low byte of a halfword only. -/
theorem wMask_w16_inLastLane : wMask .w16 &&& BitVec.allOnes 32 >>> (8 * 3) = 0xFF#32 := rfl

/-- Settles O14: the lanes by definition, the round trips by the bits that stay inside the word. -/
theorem byteLanes : Obligations.ByteLanes := by
  intro a v
  have hlane : a.toNat % 4 < 4 := Nat.mod_lt _ (by decide)
  refine ⟨rfl, rfl, rfl, rfl, rfl, rfl, ?_, fun hne => ?_, fun heq => ?_⟩
  · rw [getRData_getWData .w8 a v (by decide), laneShift, wMask_w8_inLane hlane]
  · rw [getRData_getWData .w16 a v (by decide), laneShift, wMask_w16_inLane (by omega)]
  · rw [getRData_getWData .w16 a v (by decide), laneShift, heq, wMask_w16_inLastLane]

/-! ### The TAR advance -/

/-- R247: the 1KB block of an address is its upper 22 bits. -/
theorem crosses1K_iff (t t' : Word32) : crosses1K t t' = true ↔ t'.toNat / 1024 ≠ t.toNat / 1024 := by
  have hblock (x : Word32) : (x.extractLsb' 10 22).toNat = x.toNat / 1024 := by
    have hx := x.isLt
    rw [BitVec.extractLsb'_toNat, Nat.shiftRight_eq_div_pow]
    omega
  rw [crosses1K, bne_iff_ne, ne_eq, ← BitVec.toNat_inj, hblock, hblock]

/-- `Advance` (R246), counted without the wrap of R10: a sum past 2^32 is in block 2^22, which is the block
of no address, and after the wrap it is in block 0, which the address itself is not in. -/
theorem advanceTar_eq (t inc : Word32) (hinc : inc.toNat ≤ 1024) :
    advanceTar t inc =
      if (t.toNat + inc.toNat) / 1024 = t.toNat / 1024 then some (t + inc) else none := by
  have hblock : (t + inc).toNat / 1024 = t.toNat / 1024 ↔
      (t.toNat + inc.toNat) / 1024 = t.toNat / 1024 := by
    have ht := t.isLt
    rw [BitVec.toNat_add]
    omega
  simp only [advanceTar, crosses1K_iff, ne_eq, hblock, ite_not]

section

variable {csw : Word32} (t : Word32) (w : Width)

theorem nextTar_off (h : cswAddrInc csw = 0b00#2) : nextTar csw (some t) w = some t := by
  simp [nextTar, h]

theorem nextTar_single (h : cswAddrInc csw = 0b01#2) :
    nextTar csw (some t) w = advanceTar t (widthBytes w) := by
  simp [nextTar, h]

theorem nextTar_packed (h : cswAddrInc csw = 0b10#2) :
    nextTar csw (some t) w = advanceTar t 4#32 := by
  simp [nextTar, h]

theorem nextTar_reserved (h : cswAddrInc csw = 0b11#2) : nextTar csw (some t) w = none := by
  simp [nextTar, h]

end

theorem widthBytes_toNat_le (w : Width) : (widthBytes w).toNat ≤ 1024 := by
  cases w <;> decide

/-- Settles O15: one case for each code of ADDRINC. -/
theorem tarAdvance : Obligations.TarAdvance := by
  refine fun csw t w => ⟨rfl, nextTar_off t w, fun h => ?_, fun h => ?_, nextTar_reserved t w⟩
  · rw [nextTar_single t w h, advanceTar_eq t _ (widthBytes_toNat_le w)]
  · rw [nextTar_packed t w h, advanceTar_eq t 4#32 (by decide)]
    rfl

/-! ### SIZE -/

/-- A CSW value with its SIZE replaced, bit by bit (R241: "Only SIZE is ever changed"). -/
theorem getLsbD_withSize (csw : Word32) (enc : BitVec 3) {i : Nat} (hi : i < 32) :
    (withSize csw enc).getLsbD i = if i < 3 then enc.getLsbD i else csw.getLsbD i := by
  have hmask : (~~~0x7#32 : Word32).getLsbD i = decide (3 ≤ i) :=
    (by decide : ∀ j < 32, (~~~0x7#32 : Word32).getLsbD j = decide (3 ≤ j)) i hi
  rw [withSize, BitVec.getLsbD_or, BitVec.getLsbD_and, hmask, BitVec.getLsbD_setWidth]
  by_cases hsize : i < 3
  · simp [hsize, hi]
  · simp [hsize, not_lt.mp hsize]

theorem withSize_upper (csw : Word32) (enc : BitVec 3) :
    (withSize csw enc).extractLsb' 3 29 = csw.extractLsb' 3 29 := by
  apply BitVec.eq_of_getLsbD_eq
  intro i hi
  have hupper : (withSize csw enc).getLsbD (3 + i) = csw.getLsbD (3 + i) := by
    rw [getLsbD_withSize csw enc (by omega), if_neg (by omega)]
  simp only [BitVec.getLsbD_extractLsb', hupper]

/-- Writing back the SIZE that a CSW value has does not change it. -/
theorem withSize_cswSize (csw : Word32) : withSize csw (cswSize csw) = csw := by
  apply BitVec.eq_of_getLsbD_eq
  intro i hi
  rw [getLsbD_withSize csw _ hi]
  split
  next hsize => simp [cswSize, hsize]
  next => rfl

end Sys2Proof.Machine

/-! The MEM-AP engine: what each command answers (R241 to R257). -/

namespace Sys2Proof.Machine

/-! ### The operands a command names (R240, R294, R295) -/

section

variable {r : ApRef} {body : Nat → ApConfig → State → State × Response} {s : State}

theorem withMemAp_unnamed (hm : memApOf s.cfg r = none) :
    withMemAp r body s = raiseFatal .apOwnership s := by
  simp only [withMemAp, hm]

theorem withMemAp_named {i : Nat} {ap : ApConfig} (hm : memApOf s.cfg r = some (i, ap)) :
    withMemAp r body s = body i ap s := by
  simp only [withMemAp, hm]

end

/-- `mem_set_size` after admission. -/
def memSetSizeBody (r : ApRef) (w : Nat) : State → State × Response :=
  withMemAp r fun i ap s => (setSize i ap (normWidth w) s, okDone)

/-- `mem_set_addr` after admission. -/
def memSetAddrBody (r : ApRef) (a : Option Word32) (force : Bool) : State → State × Response :=
  withAddr a fun a => withMemAp r fun i ap s => (setAddr i ap a force s, okDone)

/-- `mem_write` after admission: what `memWritePart` runs. -/
def memWriteBody (r : ApRef) (a : Option Word32) (v : Word32) (w : Nat) (o : WriteOpts) (force : Bool) :
    State → State × Response :=
  withAddr a fun a => withMemAp r (memWriteAt a v (normWidth w) o.attempts force)

/-- `mem_read` after admission: what `memReadPart` runs. -/
def memReadBody (r : ApRef) (a : Option Word32) (w : Nat) (o : ReadOpts) (force : Bool) :
    State → State × Response :=
  withAddr a fun a => withMemAp r (memReadAt a (normWidth w) o force)

section

variable {s t : State} {r : ApRef} {a : Option Word32} {w : Nat} {force : Bool} {q : Response}
  (hf : s.fatal = none)

include hf

theorem exec_memSetSize (h : memSetSizeBody r w s = (t, q)) :
    exec (.memSetSize r w) s = .next (t.answered q) :=
  command_run (body := memSetSizeBody r w) hf List.not_mem_nil h

theorem exec_memSetAddr (h : memSetAddrBody r a force s = (t, q)) :
    exec (.memSetAddr r a force) s = .next (t.answered q) :=
  command_run (body := memSetAddrBody r a force) hf List.not_mem_nil h

theorem exec_memWrite {v : Word32} {o : WriteOpts} (hn : 0 < o.attempts)
    (h : memWriteBody r a v w o force s = (t, q)) :
    exec (.memWrite r a v w o force) s = .next (t.answered q) :=
  command_run (body := memWriteBody r a v w o force) hf (by simpa using hn.ne) h

theorem exec_memRead {o : ReadOpts} (hn : 0 < o.attempts)
    (h : memReadBody r a w o force s = (t, q)) :
    exec (.memRead r a w o force) s = .next (t.answered q) :=
  command_run (body := memReadBody r a w o force) hf (by simpa using hn.ne) h

end

/-! ### Widths (R242) -/

theorem normWidth_other {w : Nat} (h8 : w ≠ 8) (h16 : w ≠ 16) : normWidth w = .w32 := by
  simp only [normWidth, h8, h16, if_false]

/-- A command reads its width only through `NormWidth`. -/
theorem exec_normWidth {w w' : Nat} (h : normWidth w = normWidth w') (s : State) :
    (∀ r, exec (.memSetSize r w) s = exec (.memSetSize r w') s) ∧
    (∀ r a o f, exec (.memRead r a w o f) s = exec (.memRead r a w' o f) s) ∧
    (∀ r a v o f, exec (.memWrite r a v w o f) s = exec (.memWrite r a v w' o f) s) ∧
    (∀ r a v o f, exec (.memWriteRead r a v w o f) s = exec (.memWriteRead r a v w' o f) s) := by
  have hread (r a o f) : memReadPart r a w o f = memReadPart r a w' o f := by
    simp only [memReadPart, h]
  have hwrite (r a v o f) : memWritePart r a v w o f = memWritePart r a v w' o f := by
    simp only [memWritePart, h]
  have hboth (r a v o f) : memWriteReadBody r a v w o f = memWriteReadBody r a v w' o f := by
    funext s
    simp only [memWriteReadBody, hread, hwrite]
  refine ⟨fun r => ?_, fun r a o f => ?_, fun r a v o f => ?_, fun r a v o f => ?_⟩
  · simp only [exec, execMemSetSize, h]
  · simp only [exec, execMemRead, hread]
  · simp only [exec, execMemWrite, hwrite]
  · simp only [exec, execMemWriteRead, hboth]

/-- Settles O16: the tables by evaluation, and every other width by `NormWidth`. -/
theorem otherWidthsAre32 : Obligations.OtherWidthsAre32 :=
  ⟨⟨rfl, rfl, rfl⟩, ⟨rfl, rfl, rfl⟩, ⟨rfl, rfl, rfl⟩, ⟨rfl, rfl, rfl⟩, fun _ s h8 h16 =>
    ⟨normWidth_other h8 h16, exec_normWidth (w' := 32) (normWidth_other h8 h16) s⟩⟩

/-! ### SIZE (R241, R251) -/

theorem cswAddr_eq (ap : ApConfig) : cswAddr ap = ap.base := BitVec.add_zero ap.base

/-- `SetSize` (R241) on the zero sentinel: the cache holds the seed `x` after the dummy read. -/
theorem setSize_unseeded {i : Nat} {ap : ApConfig} {s u : State} {x : Word32} (w : Width)
    (hi : i < s.mem.length) (h0 : (s.memAt i).currentCsw = 0#32)
    (hx : x = if s.cfg.cswSeedSource = .resetValue then ap.cswReset
      else (s.apReadResult ap.base 1 (noCmp 32)).data)
    (hu : u = (s.apRead ap.base 1 (noCmp 32)).setCsw i x) :
    setSize i ap w s =
      if cswSize x = sizeEnc w then u
      else (u.apWritten ap.base (withSize x (sizeEnc w)) 1).setCsw i (withSize x (sizeEnc w)) := by
  have hseed : seedCsw i ap s = u := by
    rw [hu, hx, seedCsw, if_pos h0, cswAddr_eq, readApCore_eq _ _ _ _ Nat.one_pos]
    cases s.cfg.cswSeedSource <;> rfl
  have hcsw : (u.memAt i).currentCsw = x := by
    rw [hu, State.memAt_setCsw _ i x (by simpa using hi)]
  simp only [setSize, hseed, hcsw, cswAddr_eq, writeApCore_eq _ _ _ _ Nat.one_pos, ne_eq, ite_not]

section

variable {s : State} {r : ApRef} {i : Nat} {ap : ApConfig} (hf : s.fatal = none)

include hf

theorem exec_memSetSize_run (w : Nat) (hm : memApOf s.cfg r = some (i, ap)) :
    exec (.memSetSize r w) s =
      .next ((setSize i ap (normWidth w) s).answered ⟨.ok, none, true⟩) :=
  exec_memSetSize hf (withMemAp_named hm)

theorem exec_memSetAddr_run (a : Word32) (force : Bool) (hm : memApOf s.cfg r = some (i, ap)) :
    exec (.memSetAddr r (some a) force) s =
      .next ((setAddr i ap a force s).answered ⟨.ok, none, true⟩) :=
  exec_memSetAddr hf (by simp only [memSetAddrBody, withAddr, withMemAp_named hm, okDone])

end

/-- Settles O37: the two cases of a seeded cache, and the seed. -/
theorem memSetSize : Obligations.MemSetSize := by
  refine ⟨fun csw enc => ⟨cswSize_withSize csw enc, withSize_upper csw enc⟩, fun s r w hf =>
    ⟨fun hm => exec_memSetSize hf (withMemAp_unnamed hm), fun i ap hlen hm => ?_⟩⟩
  have hi : i < s.mem.length := hlen ▸ memApOf_lt hm
  rw [exec_memSetSize_run hf w hm]
  refine ⟨fun hseeded (hsize : cswSize _ = _) => ?_, fun hseeded (hsize : cswSize _ ≠ _) => ?_,
    fun h0 x u hx hu => ?_⟩
  · rw [setSize_seeded i ap _ s hseeded, if_pos hsize]
  · rw [setSize_seeded i ap _ s hseeded, if_neg hsize, cswAddr_eq]
  · rw [setSize_unseeded _ hi h0 hx hu]
    rfl

/-! ### The address (R243, R252) -/

/-- Settles O38: the two cases of `SetAddr`. -/
theorem memSetAddr : Obligations.MemSetAddr := by
  refine fun s r a force hf => ⟨exec_memSetAddr hf rfl, fun hm =>
    exec_memSetAddr hf (by simp only [memSetAddrBody, withAddr, withMemAp_unnamed hm]; rfl),
    fun i ap hm => ?_⟩
  rw [exec_memSetAddr_run hf a force hm, setAddr_eq]
  refine ⟨fun hforce htar => ?_, fun hwrite => ?_⟩
  · rw [if_neg (by simp [hforce, htar])]
  · rw [if_pos hwrite]
    rfl

/-! ### Writes and reads (R248, R249) -/

/-- The TAR cache after a DRW write (R248, R254). -/
theorem afterDrwWrite_eq (i : Nat) (w : Width) (n : Nat) (s : State) :
    afterDrwWrite i w n s = s.setTar i
      (if 1 < n ∧ cswAddrInc (s.memAt i).currentCsw ≠ 0b00#2 then none
        else nextTar (s.memAt i).currentCsw (s.memAt i).currentTar w) := by
  unfold afterDrwWrite incrementAddr
  split <;> rfl

/-- The write of `mem_write` (R248), from the state `s1` before the DRW access and `u` after it. -/
theorem memWriteAt_eq {a v : Word32} {w : Width} {n : Nat} {force : Bool} {i : Nat} {ap : ApConfig}
    {s s1 u : State} (hn : 0 < n) (h1 : s1 = setAddr i ap a force (setSize i ap w s))
    (hu : u = s1.apWritten (drwAddr ap) (getWData w a v) n) :
    memWriteAt a v w n force i ap s =
      ((u.setTar i
        (if 1 < n ∧ cswAddrInc (u.memAt i).currentCsw ≠ 0b00#2 then none
          else nextTar (u.memAt i).currentCsw (u.memAt i).currentTar w)).after
        (idleEvents ap.latency) 0, ⟨.ok, none, true⟩) := by
  simp only [memWriteAt, ← h1, writeApCore_eq _ _ _ _ hn, ← hu, afterDrwWrite_eq,
    State.cycle_eq_after, okDone]

/-- The read of `mem_read` (R249), from the state `s1` before the DRW access, `u` after it and `d` read. -/
theorem memReadAt_eq {a : Word32} {w : Width} {o : ReadOpts} {force : Bool} {i : Nat} {ap : ApConfig}
    {s s1 u : State} {d : ReadResult} (hn : 0 < o.attempts)
    (h1 : s1 = setAddr i ap a force (setSize i ap w s))
    (hu : u = s1.apRead (drwAddr ap) o.attempts (laneCmp w a o))
    (hd : d = s1.apReadResult (drwAddr ap) o.attempts (laneCmp w a o)) :
    memReadAt a w o force i ap s =
      ((u.setTar i (nextTar (u.memAt i).currentCsw (u.memAt i).currentTar w)).after
        (idleEvents ap.latency) 0, ⟨.ok, some (getRData w a d.data), d.matched⟩) := by
  simp only [memReadAt, ← h1, readApCore_eq _ _ _ _ hn, ← hu, ← hd, incrementAddr,
    State.cycle_eq_after, okRead]

section

variable {s : State} {r : ApRef} {i : Nat} {ap : ApConfig} (hf : s.fatal = none)
  (hm : memApOf s.cfg r = some (i, ap))

include hf hm

theorem exec_memWrite_run (a v : Word32) (w : Nat) {o : WriteOpts} (force : Bool)
    (hn : 0 < o.attempts) :
    exec (.memWrite r (some a) v w o force) s =
      .next ((memWriteAt a v (normWidth w) o.attempts force i ap s).1.answered
        (memWriteAt a v (normWidth w) o.attempts force i ap s).2) :=
  exec_memWrite (a := some a) hf hn (withMemAp_named hm)

theorem exec_memRead_run (a : Word32) (w : Nat) {o : ReadOpts} (force : Bool)
    (hn : 0 < o.attempts) :
    exec (.memRead r (some a) w o force) s =
      .next ((memReadAt a (normWidth w) o force i ap s).1.answered
        (memReadAt a (normWidth w) o force i ap s).2) :=
  exec_memRead (a := some a) hf hn (withMemAp_named hm)

end

/-- Settles O39: `memWriteAt`, after the checks. -/
theorem memWrite : Obligations.MemWrite := by
  refine fun s r a v w o force hf hn => ⟨exec_memWrite hf hn rfl, fun hm =>
    exec_memWrite (a := some a) hf hn (withMemAp_unnamed hm), fun s1 u i ap hm h1 hu => ?_⟩
  rw [exec_memWrite_run hf hm a v w force hn, memWriteAt_eq hn h1 hu]
  rfl

/-- Settles O40: `memReadAt`, after the checks; the compare is `LaneCmp`. -/
theorem memRead : Obligations.MemRead := by
  intro s r a w o force hf hn
  refine ⟨exec_memRead hf hn rfl, fun hm =>
    exec_memRead (a := some a) hf hn (withMemAp_unnamed hm), ?_⟩
  intro s1 u i ap d c hm hc h1 hu hd
  obtain rfl : c = laneCmp (normWidth w) a o := hc
  rw [exec_memRead_run hf hm a w force hn, memReadAt_eq hn h1 hu hd]

/-! ### SIZE in force (R257) -/

theorem State.memAt_after (s : State) (es : List TransportEvent) (k i : Nat) :
    (s.after es k).memAt i = s.memAt i := rfl

/-- Just before the DRW access the SIZE of the cache is that of the access. -/
theorem cswSize_beforeDrw (a : Word32) (w : Width) (force : Bool) {i : Nat} (ap : ApConfig) {s s1 : State}
    (hi : i < s.mem.length) (h1 : s1 = setAddr i ap a force (setSize i ap w s)) :
    cswSize (s1.memAt i).currentCsw = sizeEnc w ∧ i < s1.mem.length := by
  obtain ⟨hsize, hlen⟩ := setSize_size i ap w s hi
  obtain ⟨hcsw, hlen'⟩ := setAddr_csw i ap a force (setSize i ap w s) (hlen ▸ hi)
  rw [h1, hcsw, hlen', hlen]
  exact ⟨hsize, hi⟩

/-- Settles O43: the DRW access and what follows it write the TAR cache alone. -/
theorem sizeInForce : Obligations.SizeInForce := by
  intro s r a w force i ap hf hlen hm
  obtain ⟨s1, h1⟩ : ∃ s1, s1 = setAddr i ap a force (setSize i ap (normWidth w) s) := ⟨_, rfl⟩
  obtain ⟨hsize, hi⟩ := cswSize_beforeDrw a (normWidth w) force ap (hlen ▸ memApOf_lt hm) h1
  refine ⟨h1 ▸ hsize, fun o t hn ht => ?_, fun v o t hn ht => ?_⟩
  · rw [exec_memRead_run hf hm a w force hn, memReadAt_eq hn h1 rfl rfl] at ht
    cases ht
    rw [State.memAt_congr (State.answered_mem _ _), State.memAt_after,
      State.memAt_setTar _ _ _ (by simpa using hi), State.memAt_apRead]
    exact hsize
  · rw [exec_memWrite_run hf hm a v w force hn, memWriteAt_eq hn h1 rfl] at ht
    cases ht
    rw [State.memAt_congr (State.answered_mem _ _), State.memAt_after,
      State.memAt_setTar _ _ _ (by simpa using hi), State.memAt_apWritten]
    exact hsize

end Sys2Proof.Machine

/-! `mem_write_read` (R250): the read part does not see that the write part was answered. -/

namespace Sys2Proof.Machine

/-! ### Operations on a state that has been answered -/

section

variable (s : State) (q : Response)

@[simp] theorem State.memAt_answered (i : Nat) : (s.answered q).memAt i = s.memAt i := rfl

@[simp] theorem State.setCsw_answered (i : Nat) (v : Word32) :
    (s.answered q).setCsw i v = (s.setCsw i v).answered q := rfl

@[simp] theorem State.setTar_answered (i : Nat) (v : Option Word32) :
    (s.answered q).setTar i v = (s.setTar i v).answered q := rfl

@[simp] theorem State.after_answered (es : List TransportEvent) (k : Nat) :
    (s.answered q).after es k = (s.after es k).answered q := rfl

@[simp] theorem State.apWritten_answered (a v : Word32) (n : Nat) :
    (s.answered q).apWritten a v n = (s.apWritten a v n).answered q := by
  unfold State.apWritten
  dsimp only [State.answered_active]
  split <;> rfl

@[simp] theorem State.apRead_answered (a : Word32) (n : Nat) (cmp : Cmp 32) :
    (s.answered q).apRead a n cmp = (s.apRead a n cmp).answered q := by
  unfold State.apRead
  dsimp only [State.answered_active]
  split <;> rfl

@[simp] theorem State.apReadResult_answered (a : Word32) (n : Nat) (cmp : Cmp 32) :
    (s.answered q).apReadResult a n cmp = s.apReadResult a n cmp := rfl

theorem seedCsw_answered (i : Nat) (ap : ApConfig) :
    seedCsw i ap (s.answered q) = (seedCsw i ap s).answered q := by
  by_cases h0 : (s.memAt i).currentCsw = 0#32 <;>
    simp [seedCsw, h0, readApCore_eq _ _ _ _ Nat.one_pos]

theorem setSize_answered (i : Nat) (ap : ApConfig) (w : Width) :
    setSize i ap w (s.answered q) = (setSize i ap w s).answered q := by
  by_cases hsize : cswSize ((seedCsw i ap s).memAt i).currentCsw = sizeEnc w <;>
    simp [setSize, seedCsw_answered, hsize, writeApCore_eq _ _ _ _ Nat.one_pos]

theorem setAddr_answered (i : Nat) (ap : ApConfig) (a : Word32) (force : Bool) :
    setAddr i ap a force (s.answered q) = (setAddr i ap a force s).answered q := by
  by_cases hwrite : force = true ∨ (s.memAt i).currentTar ≠ some a
  · rw [setAddr_eq, setAddr_eq, State.memAt_answered, if_pos hwrite, if_pos hwrite,
      State.apWritten_answered, State.setTar_answered]
  · rw [setAddr_eq, setAddr_eq, State.memAt_answered, if_neg hwrite, if_neg hwrite]

end

/-! ### Commands on a state that has been answered -/

/-- A command, up to its response, does not see that a command was answered before it. -/
def IgnoresAnswers (body : State → State × Response) : Prop :=
  ∀ s q, body (s.answered q) = ((body s).1.answered q, (body s).2)

theorem ignoresAnswers_raiseFatal (c : FatalCode) : IgnoresAnswers (raiseFatal c) := fun _ _ => rfl

theorem ignoresAnswers_checkAdmission {body : State → State × Response} (counts : List Nat)
    (h : IgnoresAnswers body) : IgnoresAnswers (checkAdmission counts body) := by
  intro s q
  unfold checkAdmission
  rw [State.answered_fatal]
  split
  · rfl
  · split
    · rfl
    · exact h s q

theorem ignoresAnswers_withAddr {body : Word32 → State → State × Response} (a : Option Word32)
    (h : ∀ x, IgnoresAnswers (body x)) : IgnoresAnswers (withAddr a body) := by
  cases a with
  | none => exact ignoresAnswers_raiseFatal .missingContext
  | some x => exact h x

theorem ignoresAnswers_withMemAp {body : Nat → ApConfig → State → State × Response} (r : ApRef)
    (h : ∀ i ap, IgnoresAnswers (body i ap)) : IgnoresAnswers (withMemAp r body) := by
  intro s q
  cases hm : memApOf s.cfg r with
  | none =>
    rw [withMemAp_unnamed hm, withMemAp_unnamed (s := s.answered q) hm]
    rfl
  | some named =>
    rw [withMemAp_named hm, withMemAp_named (s := s.answered q) hm]
    exact h _ _ s q

theorem ignoresAnswers_memReadAt (a : Word32) (w : Width) {o : ReadOpts} (force : Bool) (i : Nat)
    (ap : ApConfig) (hn : 0 < o.attempts) : IgnoresAnswers (memReadAt a w o force i ap) := by
  intro s q
  rw [memReadAt_eq (s := s) hn rfl rfl rfl, memReadAt_eq (s := s.answered q) hn rfl rfl rfl]
  simp [setSize_answered, setAddr_answered]

theorem ignoresAnswers_memReadPart (r : ApRef) (a : Option Word32) (w : Nat) {o : ReadOpts} (force : Bool)
    (hn : 0 < o.attempts) : IgnoresAnswers (memReadPart r a w o force) :=
  ignoresAnswers_checkAdmission _ <| ignoresAnswers_withAddr a fun x =>
    ignoresAnswers_withMemAp r fun i ap => ignoresAnswers_memReadAt x (normWidth w) force i ap hn

/-! ### The composition -/

/-- A command neither counts nor answers before its end (R21, R311). -/
theorem uncounted_before_answer {i : Instr} (hi : i.isCommand = true) {s : State}
    {p : State × Response} (h : exec i s = .next (p.1.answered p.2)) :
    p.1.pc = s.pc ∧ p.1.responses = s.responses := by
  obtain ⟨t, r, ht, hpc, hresp⟩ := commandsCounted.1 i s hi
  cases h.symm.trans ht
  exact ⟨Nat.succ.inj hpc, (List.append_inj' hresp rfl).1⟩

/-- The options of the read part of `mem_write_read`: the written value under the mask is the default
expectation (R250). -/
def memReadOpts (o : WROpts) (v : Word32) : ReadOpts :=
  { attempts := o.rAttempts, exp := some (o.exp.getD (v &&& o.mask)), mask := o.mask }

/-- R250: both parts run, whatever the write part answers, without an answer between them. -/
theorem exec_memWriteRead {s : State} {r : ApRef} {a : Option Word32} {v : Word32} {w : Nat} {o : WROpts}
    {force : Bool} {x y : State × Response} (hf : s.fatal = none) (hwn : 0 < o.wAttempts)
    (hrn : 0 < o.rAttempts) (hx : memWritePart r a v w { attempts := o.wAttempts } force s = x)
    (hy : memReadPart r a w (memReadOpts o v) force x.1 = y) :
    exec (.memWriteRead r a v w o force) s = .next (y.1.answered (composeResponse x.2 y.2)) := by
  have hbody : memWriteReadBody r a v w o force s = (y.1, composeResponse x.2 y.2) := by
    rw [← hy, ← hx]
    rfl
  exact command_run (body := memWriteReadBody r a v w o force) hf (by simp [hwn.ne, hrn.ne]) hbody

/-- Settles O41: the read part is the same after the write part's answer as without it, a fatal error of
the write part included, which refuses the read part in both. -/
theorem memWriteReadComposes : Obligations.MemWriteReadComposes := by
  intro s r a v w o force hf hwn hrn
  obtain ⟨x, hx⟩ : ∃ x, memWritePart r a v w { attempts := o.wAttempts } force s = x := ⟨_, rfl⟩
  obtain ⟨y, hy⟩ : ∃ y, memReadPart r a w (memReadOpts o v) force x.1 = y := ⟨_, rfl⟩
  have hwrite : exec (.memWrite r a v w { attempts := o.wAttempts } force) s =
      .next (x.1.answered x.2) := hx ▸ rfl
  have hreadAlone : exec (.memRead r a w (memReadOpts o v) force) x.1 = .next (y.1.answered y.2) :=
    hy ▸ rfl
  have hread : exec (.memRead r a w (memReadOpts o v) force) (x.1.answered x.2) =
      .next ((y.1.answered x.2).answered y.2) := by
    have hpart : memReadPart r a w (memReadOpts o v) force (x.1.answered x.2) =
        (y.1.answered x.2, y.2) := by
      rw [ignoresAnswers_memReadPart r a w (o := memReadOpts o v) force hrn, hy]
    exact congrArg (fun p => Host.Outcome.next (finish p)) hpart
  obtain ⟨hxpc, hxresp⟩ := uncounted_before_answer rfl hwrite
  obtain ⟨hypc, hyresp⟩ := uncounted_before_answer rfl hreadAlone
  refine ⟨x.1.answered x.2, (y.1.answered x.2).answered y.2, x.2, y.2, hwrite,
    congrArg (· ++ [x.2]) hxresp, hread, congrArg (· ++ [x.2] ++ [y.2]) hyresp, ?_⟩
  rw [exec_memWriteRead hf hwn hrn hx hy, ← hxpc, ← hypc, ← hxresp, ← hyresp]
  rfl

end Sys2Proof.Machine

/-! The TAR writes that `mem_write` sends, counted on the wire (R256). -/

namespace Sys2Proof.Machine

/-! ### Counting -/

@[simp] theorem tarWrites_append (es fs : List TransportEvent) :
    tarWrites (es ++ fs) = tarWrites es + tarWrites fs := by
  induction es with
  | nil => simp [tarWrites]
  | cons e es ih => cases e <;> simp [tarWrites, ih, Nat.add_assoc]

@[simp] theorem tarWrites_idleEvents (n : Nat) : tarWrites (idleEvents n) = 0 := by
  unfold idleEvents
  split <;> rfl

/-- One JTAG access whose scan is made once: that scan decides. -/
theorem tarWrites_jtagEvents (cfg : Params) (ir : Option Word4) (c : IrCode) (scan : TransportEvent) :
    tarWrites (jtagEvents cfg ir c scan 1) = tarWrites [scan] := by
  have hir : tarWrites (irEvents ir c) = 0 := by
    unfold irEvents
    split <;> rfl
  have hscan : tarWrites (List.replicate 1 scan) = tarWrites [scan] := rfl
  rw [jtagEvents, tarWrites_append, tarWrites_append, hir, hscan, tarWrites_idleEvents, Nat.zero_add,
    Nat.add_zero]

/-- The write scan at sub-address 0b01 is a TAR write. -/
theorem tarWrites_plainScan (v : Word32) (a : BitVec 2) :
    tarWrites [plainScan v a false] = if a = 0b01#2 then 1 else 0 := by
  have hlow : a ++ BitVec.ofBool false = 0b010#3 ↔ a = 0b01#2 := by
    revert a
    decide
  simp only [plainScan, tarWrites, drValue_low, hlow, Nat.add_zero]

/-- The AP write packet at sub-address 0b01 is a TAR write (request byte 0x8B). -/
theorem tarWrites_writePacket (cfg : Params) (apndp : Bool) (a : BitVec 2) (v : Word32) :
    tarWrites (writePacket cfg apndp a v) = if apndp = true ∧ a = 0b01#2 then 1 else 0 := by
  have hrequest : swdRequest apndp false a = 0x8B#8 ↔ apndp = true ∧ a = 0b01#2 := by
    revert apndp a
    decide
  simp only [writePacket, tarWrites, hrequest, Nat.add_zero]

/-- A SELECT write is no TAR write. -/
theorem tarWrites_selectJtag (cfg : Params) (ir : Option Word4) (x : Option Word32) :
    tarWrites (selectJtag cfg ir x) = 0 := by
  cases x with
  | none => rfl
  | some v => exact (tarWrites_jtagEvents cfg ir .dpacc _).trans (tarWrites_plainScan v 0b10#2)

theorem tarWrites_selectSwd (cfg : Params) (x : Option Word32) : tarWrites (selectSwd cfg x) = 0 := by
  cases x <;> rfl

/-! ### What a state's trace has gained -/

/-- Between `s` and `t` the trace gains events with `n` TAR writes among them. -/
def State.SendsTar (s t : State) (n : Nat) : Prop :=
  ∃ es, t.trace = s.trace ++ es ∧ tarWrites es = n

theorem State.SendsTar.refl (s : State) : s.SendsTar s 0 := ⟨[], (List.append_nil _).symm, rfl⟩

theorem State.SendsTar.trans {s t u : State} {m n : Nat} (h : s.SendsTar t m) (g : t.SendsTar u n) :
    s.SendsTar u (m + n) := by
  obtain ⟨es, hes, rfl⟩ := h
  obtain ⟨fs, hfs, rfl⟩ := g
  exact ⟨es ++ fs, by rw [hfs, hes, List.append_assoc], tarWrites_append es fs⟩

theorem State.SendsTar.count_drop {s t : State} {n : Nat} (h : s.SendsTar t n) :
    tarWrites (t.trace.drop s.trace.length) = n := by
  obtain ⟨es, hes, rfl⟩ := h
  rw [hes, List.drop_left]

section

variable {s t : State} {n : Nat} (h : s.SendsTar t n)

include h

theorem State.SendsTar.setCsw (i : Nat) (v : Word32) : s.SendsTar (t.setCsw i v) n := h

theorem State.SendsTar.setTar (i : Nat) (v : Option Word32) : s.SendsTar (t.setTar i v) n := h

theorem State.SendsTar.answered (q : Response) : s.SendsTar (t.answered q) n := h

theorem State.SendsTar.idle (k : Nat) : s.SendsTar (t.after (idleEvents k) 0) n :=
  h.trans ⟨idleEvents k, rfl, tarWrites_idleEvents k⟩

end

/-- One AP write sends a TAR write where its sub-address is that of TAR. -/
theorem State.sendsTar_apWritten (s : State) (a v : Word32) :
    s.SendsTar (s.apWritten a v 1) (if apAddr2 a = 0b01#2 then 1 else 0) := by
  cases hk : s.active with
  | jtag =>
    simp only [State.apWritten, hk]
    refine ⟨_, rfl, ?_⟩
    rw [tarWrites_append, tarWrites_append, tarWrites_append, tarWrites_selectJtag, tarWrites_jtagEvents,
      tarWrites_plainScan, tarWrites_idleEvents, tarWrites_idleEvents, Nat.zero_add]
    rfl
  | swd =>
    simp only [State.apWritten, hk]
    refine ⟨_, rfl, ?_⟩
    rw [tarWrites_append, tarWrites_append, tarWrites_selectSwd, repeatEvents_one, tarWrites_writePacket,
      tarWrites_idleEvents, Nat.zero_add]
    simp only [true_and]
    rfl

/-! ### `mem_write` on a seeded cache -/

/-- The sub-address of a register in a window that starts at a multiple of 256 (R61, R240). -/
theorem apAddr2_add {base : Word32} (hbase : base.extractLsb' 0 8 = 0#8) (k : Word32) :
    apAddr2 (base + k) = apAddr2 k := by
  have hlow : base.toNat % 256 = 0 := by
    simpa [BitVec.extractLsb'_toNat] using congrArg BitVec.toNat hbase
  apply BitVec.eq_of_toNat_eq
  simp only [apAddr2, BitVec.extractLsb'_toNat, BitVec.toNat_add, Nat.shiftRight_eq_div_pow]
  omega

section

variable {i : Nat} {ap : ApConfig} {s : State}

/-- A cache outside the list reads as unseeded. -/
theorem State.lt_length_of_seeded (hseeded : (s.memAt i).currentCsw ≠ 0#32) : i < s.mem.length := by
  by_contra hout
  exact hseeded (by simp [State.memAt, List.getElem?_eq_none (not_lt.mp hout), MemApState.reset])

/-- `SetSize` on a seeded cache leaves the TAR cache, and the CSW cache with the SIZE of the width. -/
theorem memAt_setSize (w : Width) (hi : i < s.mem.length) (hseeded : (s.memAt i).currentCsw ≠ 0#32) :
    (setSize i ap w s).memAt i =
      ⟨withSize (s.memAt i).currentCsw (sizeEnc w), (s.memAt i).currentTar⟩ := by
  rw [setSize_seeded i ap w s hseeded]
  split
  next hsize => rw [← hsize, withSize_cswSize]
  next => rw [State.memAt_setCsw _ i _ (by simpa using hi), State.memAt_apWritten]

/-- After `SetAddr` the TAR cache holds the address (R243). -/
theorem memAt_setAddr (a : Word32) (force : Bool) (hi : i < s.mem.length) :
    (setAddr i ap a force s).memAt i = ⟨(s.memAt i).currentCsw, some a⟩ := by
  rw [setAddr_eq]
  split
  next => rw [State.memAt_setTar _ i _ (by simpa using hi), State.memAt_apWritten]
  next hhit =>
    obtain ⟨-, htar⟩ := not_or.mp hhit
    rw [← not_not.mp htar]

/-- The caches after a `mem_write` of one attempt on a seeded cache: SIZE is that of the access, and TAR has
advanced from its address. -/
theorem memAt_memWriteAt (a v : Word32) (w : Width) (force : Bool) (hi : i < s.mem.length)
    (hseeded : (s.memAt i).currentCsw ≠ 0#32) {csw : Word32}
    (hcsw : csw = withSize (s.memAt i).currentCsw (sizeEnc w)) :
    (memWriteAt a v w 1 force i ap s).1.memAt i = ⟨csw, nextTar csw (some a) w⟩ := by
  obtain ⟨-, hsizeLen⟩ := setSize_size i ap w s hi
  obtain ⟨-, hlen⟩ := cswSize_beforeDrw a w force ap hi rfl
  have hcaches : (setAddr i ap a force (setSize i ap w s)).memAt i = ⟨csw, some a⟩ := by
    rw [memAt_setAddr a force (hsizeLen ▸ hi), memAt_setSize w hi hseeded, hcsw]
  rw [memWriteAt_eq Nat.one_pos rfl rfl, State.memAt_after,
    State.memAt_setTar _ i _ (by simpa using hlen), State.memAt_apWritten, hcaches]
  simp

variable (hbase : ap.base.extractLsb' 0 8 = 0#8)

include hbase

theorem sendsTar_setSize (w : Width) (hseeded : (s.memAt i).currentCsw ≠ 0#32) :
    s.SendsTar (setSize i ap w s) 0 := by
  have hsub : apAddr2 (cswAddr ap) = 0b00#2 := apAddr2_add hbase 0x00#32
  rw [setSize_seeded i ap w s hseeded]
  split
  next => exact .refl s
  next =>
    have hcsw := s.sendsTar_apWritten (cswAddr ap) (withSize (s.memAt i).currentCsw (sizeEnc w))
    rw [hsub, if_neg (by decide)] at hcsw
    exact hcsw.setCsw i _

theorem sendsTar_setAddr (a : Word32) :
    s.SendsTar (setAddr i ap a false s) (if (s.memAt i).currentTar = some a then 0 else 1) := by
  have hsub : apAddr2 (tarAddr ap) = 0b01#2 := apAddr2_add hbase 0x04#32
  rw [setAddr_eq]
  by_cases htar : (s.memAt i).currentTar = some a
  · rw [if_neg (by simp [htar]), if_pos htar]
    exact .refl s
  · have hwrite := s.sendsTar_apWritten (tarAddr ap) a
    rw [hsub, if_pos rfl] at hwrite
    rw [if_pos (.inr htar), if_neg htar]
    exact hwrite.setTar i _

/-- A `mem_write` of one attempt on a seeded cache sends a TAR write unless the cache holds its address. -/
theorem sendsTar_memWriteAt (a v : Word32) (w : Width) (hi : i < s.mem.length)
    (hseeded : (s.memAt i).currentCsw ≠ 0#32) :
    s.SendsTar (memWriteAt a v w 1 false i ap s).1
      (if (s.memAt i).currentTar = some a then 0 else 1) := by
  have hsub : apAddr2 (drwAddr ap) = 0b11#2 := apAddr2_add hbase 0x0C#32
  have hsize := sendsTar_setSize hbase w hseeded
  have haddr := sendsTar_setAddr (i := i) (s := setSize i ap w s) hbase a
  have hdrw := (setAddr i ap a false (setSize i ap w s)).sendsTar_apWritten (drwAddr ap) (getWData w a v)
  rw [memAt_setSize w hi hseeded] at haddr
  rw [hsub, if_neg (by decide)] at hdrw
  have hevents := hsize.trans (haddr.trans hdrw)
  rw [Nat.zero_add, Nat.add_zero] at hevents
  rw [memWriteAt_eq Nat.one_pos rfl rfl]
  exact (hevents.setTar i _).idle ap.latency

/-- A whole `mem_write` command of one attempt on a seeded cache: the caches it leaves, its TAR writes, and
that the session goes on. -/
theorem exec_memWrite_seeded {t : State} {r : ApRef} {a v : Word32} {w : Nat} (hf : s.fatal = none)
    (hm : memApOf s.cfg r = some (i, ap)) (hseeded : (s.memAt i).currentCsw ≠ 0#32)
    (ht : exec (.memWrite r (some a) v w {} false) s = .next t) {csw : Word32}
    (hcsw : csw = withSize (s.memAt i).currentCsw (sizeEnc (normWidth w))) :
    t.memAt i = ⟨csw, nextTar csw (some a) (normWidth w)⟩ ∧
      s.SendsTar t (if (s.memAt i).currentTar = some a then 0 else 1) ∧
      t.fatal = none ∧ memApOf t.cfg r = some (i, ap) := by
  have hi : i < s.mem.length := State.lt_length_of_seeded hseeded
  have hkept := (memWriteAt_moves a v (normWidth w) 1 false i ap s Nat.one_pos).kept
  obtain rfl : t = (memWriteAt a v (normWidth w) 1 false i ap s).1.answered okDone :=
    Host.Outcome.next.inj (ht.symm.trans (exec_memWrite_run hf hm a v w false Nat.one_pos))
  exact ⟨memAt_memWriteAt a v (normWidth w) false hi hseeded hcsw,
    (sendsTar_memWriteAt hbase a v (normWidth w) hi hseeded).answered okDone,
    hkept.fatal.trans hf, (congrArg (memApOf · r) hkept.cfg).trans hm⟩

end

/-- With ADDRINC single or packed the TAR cache advances by a step between 1 and 1024 bytes (R246). -/
theorem nextTar_on {csw inc : Word32} (t : Word32) (w : Width)
    (hinc : inc = if cswAddrInc csw = 0b01#2 then widthBytes w else 4#32)
    (hon : cswAddrInc csw ∈ [0b01#2, 0b10#2]) :
    nextTar csw (some t) w = advanceTar t inc ∧ inc ≠ 0#32 ∧ inc.toNat ≤ 1024 := by
  rw [List.mem_cons, List.mem_singleton] at hon
  obtain hsingle | hpacked := hon
  · rw [hinc, if_pos hsingle]
    exact ⟨nextTar_single t w hsingle, by cases w <;> decide, widthBytes_toNat_le w⟩
  · rw [hinc, hpacked, if_neg (by decide)]
    exact ⟨nextTar_packed t w hpacked, by decide, by decide⟩

/-- An advance never ends where it started. -/
theorem advanceTar_ne_self {t inc : Word32} (hinc : inc ≠ 0#32) : advanceTar t inc ≠ some t := by
  simp [advanceTar, hinc]

/-- Settles O42: the first command writes TAR; the second does unless TAR has advanced to its address. -/
theorem addressCaching : Obligations.AddressCaching := by
  intro s t u r a b v x w i ap inc hf hm hbase hseeded htar hcsw0 ht hu hinc
  obtain ⟨csw, hcsw⟩ : ∃ csw, csw = withSize (s.memAt i).currentCsw (sizeEnc (normWidth w)) :=
    ⟨_, rfl⟩
  obtain ⟨hcaches, hfirst, htf, htm⟩ := exec_memWrite_seeded hbase hf hm hseeded ht hcsw
  have htseeded : (t.memAt i).currentCsw ≠ 0#32 := by
    rw [hcaches]
    exact hcsw ▸ hcsw0
  obtain ⟨-, hsecond, -, -⟩ := exec_memWrite_seeded hbase htf htm htseeded hu rfl
  have hcount := (hfirst.trans hsecond).count_drop
  rw [if_neg htar, hcaches] at hcount
  have haddrInc : cswAddrInc (s.memAt i).currentCsw = cswAddrInc csw :=
    hcsw ▸ (cswAddrInc_withSize _ _).symm
  change inc = if cswAddrInc _ = 0b01#2 then _ else _ at hinc
  change (cswAddrInc _ = 0b00#2 → _) ∧ (cswAddrInc _ ∈ [0b01#2, 0b10#2] → _)
  rw [haddrInc] at hinc ⊢
  rw [hcount]
  refine ⟨fun hoff => ?_, fun hon => ?_⟩
  · rw [nextTar_off a _ hoff]
    by_cases hab : a = b <;> simp [hab]
  · obtain ⟨hnext, hne, hle⟩ := nextTar_on a (normWidth w) hinc hon
    rw [hnext]
    refine ⟨fun hba => ?_, fun hba hblock => ?_⟩
    · rw [hba, if_neg (advanceTar_ne_self hne)]
    · rw [hba, if_pos ((advanceTar_eq a inc hle).trans (if_pos hblock))]

end Sys2Proof.Machine

/-! Session control: `set_dp` and `reset_dp` (R280, R281). -/

namespace Sys2Proof.Machine

/-- Where the Debug Port is configured, `set_dp` answers OK (R280). -/
theorem setDpBody_response (k : Transport) (s : State) (hk : s.cfg.has k = true) :
    (setDpBody k s).2 = okDone := by
  cases k <;> simp only [setDpBody, hk, if_true]

theorem setDpBody_unconfigured (k : Transport) (s : State) (hk : s.cfg.has k = false) :
    setDpBody k s = raiseFatal .protocolMisuse s := by
  simp [setDpBody, hk]

section

variable {s t : State} (hf : s.fatal = none)

include hf

theorem exec_setDp_configured {k : Transport} (hk : s.cfg.has k = true) (h : (setDpBody k s).1 = t) :
    exec (.setDp k) s = .next (t.answered okDone) :=
  command_run (body := setDpBody k) hf List.not_mem_nil (Prod.ext h (setDpBody_response k s hk))

theorem exec_setDp_unconfigured {k : Transport} (hk : s.cfg.has k = false) :
    exec (.setDp k) s = .next (s.fataled .protocolMisuse) :=
  command_run (body := setDpBody k) hf List.not_mem_nil (setDpBody_unconfigured k s hk)

theorem exec_resetDp (h : (resetDpBody s).1 = t) : exec .resetDp s = .next (t.answered okDone) :=
  command_run (body := resetDpBody) hf List.not_mem_nil (Prod.ext h rfl)

end

/-- Settles O44: by `setDpBody_eq` on each configured kind, and PROTOCOL_MISUSE on one that is not. -/
theorem setDp : Obligations.SetDp := fun s hf =>
  ⟨fun hjtag => exec_setDp_configured hf hjtag (setDpBody_eq .jtag s hjtag),
    fun hswd => exec_setDp_configured hf hswd (setDpBody_eq .swd s hswd),
    fun _ => exec_setDp_unconfigured hf⟩

/-- Settles O45: the two cases of `resetDpBody_eq`, by the active transport. -/
theorem resetDp : Obligations.ResetDp := by
  refine fun s hf => ⟨fun hactive => exec_resetDp hf ?_, fun hactive => exec_resetDp hf ?_⟩
  all_goals rw [resetDpBody_eq, hactive]

end Sys2Proof.Machine

/-! The step and how commands stop: the command port (R302, R310), the fatal state (R299), and the fatal
errors (R292 to R296, R298, R300). -/

namespace Sys2Proof.Machine

/-! ### The step -/

theorem takeItem_nil {s : State} (hp : s.port = []) : takeItem s = none := by
  simp only [takeItem, hp]

theorem takeItem_cons {s : State} {p : PortItem} {ps : List PortItem} (hp : s.port = p :: ps) :
    takeItem s = some (p, { s with port := ps }) := by
  simp only [takeItem, hp]

/-- Settles O2: the item taken off the port decides which arm of `step` answers. -/
theorem stepRunsDecoded : Obligations.StepRunsDecoded := by
  refine fun s => ⟨fun hp => ?_, fun p ps hp => ⟨fun i hd => ?_, fun e hd => ?_⟩⟩
  · simp only [step, takeItem_nil hp]
  · simp only [step, takeItem_cons hp, hd]
  · simp only [step, takeItem_cons hp, hd]

/-! ### The fatal state -/

/-- R299: admission asks for the fatal state before anything else. -/
theorem exec_refused (i : Instr) (hi : i.isCommand = true) {s : State} (hf : s.fatal ≠ none) :
    exec i s = .next (s.answered ⟨.refused, none, true⟩) := by
  obtain ⟨body, hexec, -⟩ := exec_command i hi
  rw [hexec s, command_eq, checkAdmission_refused _ body s hf]
  rfl

/-- A command is refused where the session is fatal, and no frame touches the fatal state. -/
theorem exec_keeps_fatal {i : Instr} {s t : State} {c : FatalCode} (hf : s.fatal = some c)
    (h : exec i s = .next t) : t.fatal = some c := by
  by_cases hi : i.isCommand = true
  · have hrefused := exec_refused i hi (s := s) (by simp [hf])
    rw [← Host.Outcome.next.inj (hrefused.symm.trans h)]
    exact hf
  · exact (frame_kept i hi h).fatal.trans hf

/-- Settles O18: a step idles or runs one instruction, and neither clears the fatal code. -/
theorem refusedUntilReset : Obligations.RefusedUntilReset := by
  refine ⟨fun i s hi hf => exec_refused i hi hf, fun s t c hf h => ?_⟩
  rcases step_inv h with rfl | ⟨i, ps, hexec⟩
  · exact hf
  · exact exec_keeps_fatal (s := { s with port := ps }) hf hexec

/-! ### The fatal code of an admitted command (R293 to R295) -/

/-- R294: the address is asked for before the body runs. -/
theorem withAddr_fatal {a : Option Word32} {body : Word32 → State → State × Response} {s : State}
    {c : Option FatalCode} (h : ∀ x, (body x s).1.fatal = c) :
    (withAddr a body s).1.fatal = if a.isNone then some .missingContext else c := by
  cases a with
  | none => rfl
  | some x => exact h x

/-- R295: so is the AP reference. -/
theorem withMemAp_fatal {r : ApRef} {body : Nat → ApConfig → State → State × Response} {s : State}
    {c : Option FatalCode} (h : ∀ i ap, (body i ap s).1.fatal = c) :
    (withMemAp r body s).1.fatal = if (memApOf s.cfg r).isNone then some .apOwnership else c := by
  cases hm : memApOf s.cfg r with
  | none => rw [withMemAp_unnamed hm]; rfl
  | some named => rw [withMemAp_named hm]; exact h _ _

/-- The fatal code of the operands of a MEM-AP access (R294, R295, in the order of R300). -/
def memOperandsFatal (cfg : Params) (r : ApRef) (a : Option Word32) : Option FatalCode :=
  if a.isNone then some .missingContext
  else if (memApOf cfg r).isNone then some .apOwnership
  else none

theorem namedAp_unresolved_iff {cfg : Params} {r : ApRef} :
    (some r).map (fun r => (memApOf cfg r).isNone) = some true ↔ (memApOf cfg r).isNone = true :=
  Option.some_inj

/-- The same in the words of `fatalCheck`. -/
theorem memOperandsFatal_eq (cfg : Params) (r : ApRef) (a : Option Word32) :
    memOperandsFatal cfg r a =
      if a.isNone then some .missingContext
      else if (some r).map (fun r => (memApOf cfg r).isNone) = some true then some .apOwnership
      else none := by
  simp only [memOperandsFatal, namedAp_unresolved_iff]

section

variable {s : State} (hf : s.fatal = none)

include hf

theorem readApBody_fatal (a : Option Word32) {o : ReadOpts} (hn : 0 < o.attempts) :
    (readApBody a o s).1.fatal = if a.isNone then some .missingContext else none := by
  cases a with
  | none => rfl
  | some x => exact ((readApCore_moves x _ _ s hn).trans (rawCoherence_moves _ _ _)).kept.fatal.trans hf

theorem writeApBody_fatal (a : Option Word32) (v : Word32) {o : WriteOpts} (hn : 0 < o.attempts) :
    (writeApBody a v o s).1.fatal = if a.isNone then some .missingContext else none := by
  cases a with
  | none => rfl
  | some x => exact ((writeApCore_moves x v _ s hn).trans (rawCoherence_moves _ _ _)).kept.fatal.trans hf

theorem setApSelectBody_fatal (a : Option Word32) :
    (setApSelectBody a s).1.fatal = if a.isNone then some .missingContext else none := by
  cases a with
  | none => rfl
  | some x => exact (selectForAp_moves x s).kept.fatal.trans hf

theorem memSetSizeBody_fatal (r : ApRef) (w : Nat) :
    (memSetSizeBody r w s).1.fatal = if (memApOf s.cfg r).isNone then some .apOwnership else none :=
  withMemAp_fatal fun i ap => (setSize_moves i ap _ s).kept.fatal.trans hf

theorem memSetAddrBody_fatal (r : ApRef) (a : Option Word32) (force : Bool) :
    (memSetAddrBody r a force s).1.fatal = memOperandsFatal s.cfg r a :=
  withAddr_fatal fun x => withMemAp_fatal fun i ap =>
    (setAddr_moves i ap x force s).kept.fatal.trans hf

theorem memReadBody_fatal (r : ApRef) (a : Option Word32) (w : Nat) {o : ReadOpts} (force : Bool)
    (hn : 0 < o.attempts) : (memReadBody r a w o force s).1.fatal = memOperandsFatal s.cfg r a :=
  withAddr_fatal fun x => withMemAp_fatal fun i ap =>
    (memReadAt_moves x _ o force i ap s hn).kept.fatal.trans hf

theorem memWriteBody_fatal (r : ApRef) (a : Option Word32) (v : Word32) (w : Nat) {o : WriteOpts}
    (force : Bool) (hn : 0 < o.attempts) :
    (memWriteBody r a v w o force s).1.fatal = memOperandsFatal s.cfg r a :=
  withAddr_fatal fun x => withMemAp_fatal fun i ap =>
    (memWriteAt_moves x v _ _ force i ap s hn).kept.fatal.trans hf

theorem setDpBody_fatal (k : Transport) :
    (setDpBody k s).1.fatal = if s.cfg.has k then none else some .protocolMisuse := by
  cases hk : s.cfg.has k with
  | false => rw [setDpBody_unconfigured k s hk]; rfl
  | true => rw [setDpBody_eq k s hk]; cases k <;> exact hf

end

/-! ### The compositions (R139, R250) -/

/-- The second part of a composition keeps the fatal code the first one left: it is refused where there
is one (R299), and raises none of its own where the first part raised none. -/
theorem checkAdmission_keeps_fatal {counts : List Nat} {body : State → State × Response} {s : State}
    {c : Option FatalCode} (hn : 0 ∉ counts) (hs : s.fatal = c)
    (hbody : c = none → (body s).1.fatal = none) : (checkAdmission counts body s).1.fatal = c := by
  cases c with
  | none => rw [checkAdmission_run counts body s hs hn]; exact hbody rfl
  | some c => rw [checkAdmission_refused counts body s (by simp [hs])]; exact hs

section

variable {s : State} (hf : s.fatal = none)

include hf

theorem writeReadDpBody_fatal (r : DpRef) (v : Word32) {o : WROpts} (hw : 0 < o.wAttempts)
    (hr : 0 < o.rAttempts) : (writeReadDpBody r v o s).1.fatal = none := by
  have hwrite : (writeDpPart r v { attempts := o.wAttempts } s).1.fatal = none :=
    (part_moves _ hw _ s hf (writeDpBody_moves r v _ s hw)).kept.fatal.trans hf
  exact checkAdmission_keeps_fatal (by simpa using hr.ne) hwrite fun _ =>
    (readDpBody_moves r _ _ hr).kept.fatal.trans hwrite

/-- The write part leaves the configuration, so the read part finds what it found. -/
theorem memWriteReadBody_fatal (r : ApRef) (a : Option Word32) (v : Word32) (w : Nat) {o : WROpts}
    (force : Bool) (hw : 0 < o.wAttempts) (hr : 0 < o.rAttempts) :
    (memWriteReadBody r a v w o force s).1.fatal = memOperandsFatal s.cfg r a := by
  have hpart : memWritePart r a v w { attempts := o.wAttempts } force s =
      memWriteBody r a v w { attempts := o.wAttempts } force s :=
    checkAdmission_run _ _ s hf (by simpa using hw.ne)
  have hending : Ending (.memWriteRead r a v w o force) s
      (memWriteBody r a v w { attempts := o.wAttempts } force s) :=
    withAddr_ending _ a _ s fun x => withMemAp_ending _ r _ s fun i ap =>
      .moved _ _ (memWriteAt_moves x v _ _ force i ap s hw)
  have hcfg := hending.framed.1.cfg
  have hwrite := memWriteBody_fatal hf r a v w (o := { attempts := o.wAttempts }) force hw
  rw [← hpart] at hcfg hwrite
  refine checkAdmission_keeps_fatal (by simpa using hr.ne) hwrite fun hnone => ?_
  have hread := memReadBody_fatal (hwrite.trans hnone) r a w (o := memReadOpts o v) force hr
  rwa [hcfg, hnone] at hread

end

/-! ### The fatal code of a command (R300) -/

/-- What a command runs once it is admitted. A wire frame is no command; its entry is not used. -/
def commandBody : Instr → State → State × Response
  | .readDp r o => readDpBody r o
  | .writeDp r v o => writeDpBody r v o
  | .writeReadDp r v o => writeReadDpBody r v o
  | .readAp a o => readApBody a o
  | .writeAp a v o => writeApBody a v o
  | .setApSelect a => setApSelectBody a
  | .memSetSize r w => memSetSizeBody r w
  | .memSetAddr r a force => memSetAddrBody r a force
  | .memRead r a w o force => memReadBody r a w o force
  | .memWrite r a v w o force => memWriteBody r a v w o force
  | .memWriteRead r a v w o force => memWriteReadBody r a v w o force
  | .setDp k => setDpBody k
  | .resetDp => resetDpBody
  | _ => refuse

theorem exec_eq_command (i : Instr) (hi : i.isCommand = true) (s : State) :
    exec i s = command (checkAdmission (attemptCounts i) (commandBody i)) s := by
  cases i with
  | readDp | writeDp | writeReadDp | readAp | writeAp | setApSelect | memSetSize | memSetAddr
  | memRead | memWrite | memWriteRead | setDp | resetDp => rfl
  | _ => cases hi

/-- The checks of R300 that follow the attempt counts are the ones the bodies make. -/
theorem commandBody_fatal {i : Instr} (hi : i.isCommand = true) {s : State} (hf : s.fatal = none)
    (hn : 0 ∉ attemptCounts i) : (commandBody i s).1.fatal = fatalCheck s i := by
  have hcounts : ¬(attemptCounts i).contains 0 = true := by simpa using hn
  have one {n : Nat} (h : 0 ∉ [n]) : 0 < n := by simpa [Nat.pos_iff_ne_zero, eq_comm] using h
  have two {m n : Nat} (h : 0 ∉ [m, n]) : 0 < m ∧ 0 < n := by
    simpa [Nat.pos_iff_ne_zero, eq_comm] using h
  unfold fatalCheck
  rw [if_neg hcounts]
  cases i with
  | readDp r o => exact (readDpBody_moves r o s (one hn)).kept.fatal.trans hf
  | writeDp r v o => exact (writeDpBody_moves r v o s (one hn)).kept.fatal.trans hf
  | writeReadDp r v o => exact writeReadDpBody_fatal hf r v (two hn).1 (two hn).2
  | readAp a o => exact readApBody_fatal hf a (one hn)
  | writeAp a v o => exact writeApBody_fatal hf a v (one hn)
  | setApSelect a => exact setApSelectBody_fatal hf a
  | memSetSize r w =>
    refine (memSetSizeBody_fatal hf r w).trans ?_
    simp only [lacksAddress, namedAp, namedAp_unresolved_iff, Bool.false_eq_true, if_false]
  | memSetAddr r a force =>
    exact (memSetAddrBody_fatal hf r a force).trans (memOperandsFatal_eq _ r a)
  | memRead r a w o force =>
    exact (memReadBody_fatal hf r a w force (one hn)).trans (memOperandsFatal_eq _ r a)
  | memWrite r a v w o force =>
    exact (memWriteBody_fatal hf r a v w force (one hn)).trans (memOperandsFatal_eq _ r a)
  | memWriteRead r a v w o force =>
    exact (memWriteReadBody_fatal hf r a v w force (two hn).1 (two hn).2).trans
      (memOperandsFatal_eq _ r a)
  | setDp k => exact setDpBody_fatal hf k
  | resetDp => exact (resetDpBody_kept s).fatal.trans hf
  | _ => cases hi

/-- The attempt counts are checked first (R292), then the operands. -/
theorem exec_fatal {i : Instr} (hi : i.isCommand = true) {s : State} (hf : s.fatal = none) :
    ∃ t, exec i s = .next t ∧ t.fatal = fatalCheck s i := by
  refine ⟨_, (exec_eq_command i hi s).trans (command_eq _ s), ?_⟩
  rw [State.answered_fatal]
  by_cases hn : 0 ∈ attemptCounts i
  · have hcode : fatalCheck s i = some .badOption := if_pos (by simpa using hn)
    rw [checkAdmission_badOption _ _ s hf hn, hcode]
    rfl
  · rw [checkAdmission_run _ _ s hf hn, commandBody_fatal hi hf hn]

/-- R298: a command that leaves the session fatal has done nothing but raise its code. -/
theorem Ending.eq_raiseFatal {i : Instr} {s : State} {p : State × Response} {c : FatalCode}
    (h : Ending i s p) (hf : s.fatal = none) (hc : p.1.fatal = some c) : p = raiseFatal c s := by
  have kept {t : State} (hkept : t.fatal = s.fatal) : t.fatal ≠ some c := by simp [hkept, hf]
  cases h with
  | moved t r hm => exact absurd hc (kept hm.kept.fatal)
  | fatal c' => cases hc; rfl
  | setDp k _ hk =>
    rw [setDpBody_fatal hf k, if_pos hk] at hc
    cases hc
  | resetDp => exact absurd hc (kept (resetDpBody_kept s).fatal)

/-- Settles O17: the code is the one of `exec_fatal`, and an ending with a code is `raiseFatal`. -/
theorem fatalErrors : Obligations.FatalErrors := by
  intro i s hi hf
  obtain ⟨t, ht, hcode⟩ := exec_fatal hi hf
  obtain ⟨p, rfl, hending⟩ := command_inv i hi ht
  refine ⟨_, ht, hcode, fun c hc => ?_⟩
  rw [hending.eq_raiseFatal hf (hcode.trans hc)]
  rfl

end Sys2Proof.Machine

/-! What reset leaves in every register of the engine (R330). -/

namespace Sys2Proof.Machine

/-- R330: the record of either kind holds the caches of reset, configured or not (log entry 27). -/
theorem resetWith_dp (c : Params) (k : Transport) :
    (State.resetWith c).dp k = ⟨c.dpSelectReset, none, false⟩ := by
  cases k <;> rfl

/-- R27, R28, R330: each entry of `APS` has its pair of caches, at both sentinels. -/
theorem resetWith_mem {c : Params} {i : Nat} {ap : ApConfig} (hap : c.aps[i]? = some ap) :
    (State.resetWith c).mem[i]? = some ⟨0x00000000#32, none⟩ := by
  have hmem : (State.resetWith c).mem = c.aps.map fun _ => MemApState.reset := rfl
  rw [hmem, List.getElem?_map, hap]
  rfl

/-- R330, R331: the session is fatal from the start where no Debug Port is configured. -/
theorem resetWith_fatal (c : Params) :
    (State.resetWith c).fatal =
      if c.hasJtagDp = true ∨ c.hasSwdDp = true then none else some .protocolMisuse := by
  simp only [State.resetWith, Bool.or_eq_true]

/-- Settles O1: `pc`, `active`, `last_ack` and the trace are the fields of `State.resetWith` themselves. -/
theorem resetValues : Obligations.ResetValues := fun c =>
  ⟨rfl, rfl, fun k _ => resetWith_dp c k, fun _ _ hap _ => resetWith_mem hap, resetWith_fatal c, rfl, rfl⟩

end Sys2Proof.Machine

/-! What six JTAG commands send, and how many scans and clocks that is (R347, R348). -/

namespace Sys2Proof.Machine

/-! ### Counting scans and idle clocks -/

/-- The IR scans, the DR scans and the idle clocks among some events. -/
def tally (es : List TransportEvent) : Nat × Nat × Nat := (irScans es, drScans es, idleClocks es)

theorem tally_cons (e : TransportEvent) (es : List TransportEvent) :
    tally (e :: es) = tally [e] + tally es := by
  cases e <;> simp [tally, irScans, drScans, idleClocks]

theorem tally_append (es fs : List TransportEvent) : tally (es ++ fs) = tally es + tally fs := by
  induction es with
  | nil => exact (zero_add (tally fs)).symm
  | cons e es ih => rw [List.cons_append, tally_cons, ih, ← add_assoc, ← tally_cons]

/-- A row of the table of R348: what some events count, and their total clocks. -/
def Costs (cfg : Params) (es : List TransportEvent) (n : Nat × Nat × Nat) (k : Nat) : Prop :=
  tally es = n ∧ totalClocks cfg es = k

section

variable {cfg : Params} {es fs : List TransportEvent} {m n : Nat × Nat × Nat} {j k : Nat}

theorem Costs.append (h : Costs cfg es m j) (g : Costs cfg fs n k) : Costs cfg (es ++ fs) (m + n) (j + k) :=
  ⟨by rw [tally_append, h.1, g.1], by rw [totalClocks_append, h.2, g.2]⟩

theorem costs_idleEvents (d : Nat) : Costs cfg (idleEvents d) (0, 0, d) d := by
  refine ⟨?_, totalClocks_idleEvents cfg d⟩
  by_cases hd : d = 0 <;> simp [idleEvents, hd, tally, irScans, drScans, idleClocks]

theorem costs_plainScan (data : Word32) (a : BitVec 2) (rnw : Bool) :
    Costs cfg [plainScan data a rnw] (0, 1, 0) (35 + cfg.jtagDrOverhead) := ⟨rfl, rfl⟩

theorem costs_rdbuffScan (cmp : Cmp 32) :
    Costs cfg [rdbuffScan cfg cmp] (0, 1, 0) (35 + cfg.jtagDrOverhead) := ⟨rfl, rfl⟩

theorem costs_drScan32 (tdi : Word32) (cmp : Cmp 32) :
    Costs cfg [.drScan32 tdi cmp] (0, 1, 0) (32 + cfg.jtagDrOverhead) := ⟨rfl, rfl⟩

variable {ir : Option Word4} {c : IrCode} {scan : TransportEvent} (hscan : Costs cfg [scan] n k)

include hscan

/-- An access whose class is the one in force is its scan and the settle delay (R181, R186). -/
theorem costs_jtagEvents_inForce (hir : ir = some (irValue c)) :
    Costs cfg (jtagEvents cfg ir c scan 1) (n + (0, 0, cfg.accAccessDly)) (k + cfg.accAccessDly) := by
  rw [jtagEvents, irEvents, if_pos hir]
  exact hscan.append (costs_idleEvents _)

/-- Any other access scans the IR first (R181). -/
theorem costs_jtagEvents_changed (hir : ir ≠ some (irValue c)) :
    Costs cfg (jtagEvents cfg ir c scan 1) ((1, 0, 0) + n + (0, 0, cfg.accAccessDly))
      (4 + cfg.jtagIrOverhead + k + cfg.accAccessDly) := by
  have hirScan : Costs cfg [.irScan (irValue c)] (1, 0, 0) (4 + cfg.jtagIrOverhead) := ⟨rfl, rfl⟩
  rw [jtagEvents, irEvents, if_neg hir]
  exact (hirScan.append hscan).append (costs_idleEvents _)

end

/-! ### What the commands send -/

/-- Running `i` in `s` adds exactly the events `fs` to the trace. -/
def Sends (i : Instr) (s : State) (fs : List TransportEvent) : Prop :=
  ∃ t, exec i s = .next t ∧ t.trace = s.trace ++ fs

/-- What a run has added to the trace is what the command sends, so it costs the same. -/
theorem Sends.costs {i : Instr} {s t : State} {es fs : List TransportEvent} {m n : Nat × Nat × Nat}
    {j k : Nat} (h : Sends i s fs) (ht : exec i s = .next t) (hes : t.trace = s.trace ++ es)
    (hcosts : Costs s.cfg fs m j) (hn : m = n) (hk : j = k) : Costs s.cfg es n k := by
  obtain ⟨u, hu, hfs⟩ := h
  obtain rfl : t = u := Host.Outcome.next.inj (ht.symm.trans hu)
  rw [List.append_cancel_left (hes.symm.trans hfs)]
  exact ⟨hcosts.1.trans hn, hcosts.2.trans hk⟩

section

variable {s : State} (hf : s.fatal = none) (hk : s.active = .jtag)

include hf hk

theorem writeDp_ctrlStat_sends (v : Word32) :
    Sends (.writeDp (.name .ctrlStat) v {}) s
      (jtagEvents s.cfg s.dpJtag.ir .dpacc (plainScan v 0b01#2 false) 1) :=
  ⟨_, (writeDpCtrlStat s _ v {} hf Nat.one_pos (hk ▸ rfl)).1 hk, rfl⟩

theorem writeDp_abort_sends (v : Word32) :
    Sends (.writeDp (.name .abort) v {}) s
      (jtagEvents s.cfg s.dpJtag.ir .abort (plainScan v 0b00#2 false) 1) :=
  ⟨_, (writeDpAbort s _ v {} hf Nat.one_pos (hk ▸ rfl)).1 hk, rfl⟩

theorem readDp_ctrlStat_sends :
    Sends (.readDp (.name .ctrlStat) {}) s
      (jtagEvents s.cfg s.dpJtag.ir .dpacc (plainScan 0#32 0b01#2 true) 1 ++
        jtagEvents s.cfg (some (irValue .dpacc)) .dpacc (rdbuffScan s.cfg (noCmp 32)) 1) :=
  ⟨_, (readDpCtrlStat s _ {} _ hf Nat.one_pos rfl (hk ▸ rfl)).1 hk, rfl⟩

theorem readDp_idcode_sends :
    Sends (.readDp (.name .idcode) {}) s
      (jtagEvents s.cfg s.dpJtag.ir .idcode (.drScan32 0#32 (noCmp 32)) 1) :=
  ⟨_, (readDpIdcode s _ {} _ hf Nat.one_pos rfl (hk ▸ rfl)).1 hk, rfl⟩

variable {a : Word32} (hhit : s.apSelect a = none)

include hhit

/-- On a hit of the SELECT cache no SELECT write comes first (R161). -/
theorem writeAp_sends (v : Word32) :
    Sends (.writeAp (some a) v {}) s
      (jtagEvents s.cfg s.dpJtag.ir .apacc (plainScan v (a.extractLsb' 2 2) false) 1 ++
        idleEvents s.cfg.writeApDly ++ idleEvents (apWait s.cfg a)) := by
  obtain ⟨-, -, htrace⟩ := rawCoherence_dp a (some v) (s.apWritten a v 1)
  refine ⟨_, exec_writeAp_run hf a v Nat.one_pos, htrace.trans ?_⟩
  simp only [State.apWritten, hk, hhit, selectJtag, irAfterSelect, List.nil_append, State.after_trace]

theorem readAp_sends :
    Sends (.readAp (some a) {}) s
      (jtagEvents s.cfg s.dpJtag.ir .apacc (plainScan 0#32 (a.extractLsb' 2 2) true) 1 ++
        idleEvents (apWait s.cfg a) ++
        jtagEvents s.cfg (some (irValue .apacc)) .dpacc (rdbuffScan s.cfg (noCmp 32)) 1) := by
  obtain ⟨-, -, htrace⟩ := rawCoherence_dp a none (s.apRead a 1 (noCmp 32))
  refine ⟨_, exec_readAp_run hf a Nat.one_pos, htrace.trans ?_⟩
  simp only [State.apRead, hk, hhit, selectJtag, irAfterSelect, List.nil_append, State.after_trace]

end

/-! ### The table of R348 -/

/-- Settles O60: the events of each command are one or two accesses and idle clocks, and each access
scans the IR exactly where its class is not the one in force. -/
theorem jtagClockTotals : Obligations.JtagClockTotals := by
  intro s t es v a hf hk hacc hdly hwait hhit hes
  refine ⟨fun ht hir => ?writeCtrlStat, fun ht hir => ?readCtrlStat, fun ht hir => ?readIdcode,
    fun ht hir => ?writeAp, fun ht hir => ?readAp, fun ht hir => ?writeAbort⟩
  case writeCtrlStat =>
    exact (writeDp_ctrlStat_sends hf hk v).costs ht hes
      (costs_jtagEvents_inForce (costs_plainScan ..) hir) (by rw [hacc]; rfl) (by omega)
  case readCtrlStat =>
    exact (readDp_ctrlStat_sends hf hk).costs ht hes
      ((costs_jtagEvents_inForce (costs_plainScan ..) hir).append
        (costs_jtagEvents_inForce (costs_rdbuffScan _) rfl)) (by rw [hacc]; rfl) (by omega)
  case readIdcode =>
    exact (readDp_idcode_sends hf hk).costs ht hes
      (costs_jtagEvents_changed (costs_drScan32 ..) hir) (by rw [hacc]; rfl) (by omega)
  case writeAp =>
    exact (writeAp_sends hf hk hhit v).costs ht hes
      (((costs_jtagEvents_inForce (costs_plainScan ..) hir).append (costs_idleEvents _)).append
        (costs_idleEvents _)) (by rw [hacc, hdly, hwait]; rfl) (by omega)
  case readAp =>
    have hapacc : s.dpJtag.ir ≠ some (irValue .apacc) := by rw [hir]; decide
    have hdpacc : some (irValue .apacc) ≠ some (irValue .dpacc) := by decide
    exact (readAp_sends hf hk hhit).costs ht hes
      (((costs_jtagEvents_changed (costs_plainScan ..) hapacc).append (costs_idleEvents _)).append
        (costs_jtagEvents_changed (costs_rdbuffScan _) hdpacc)) (by rw [hacc, hwait]; rfl) (by omega)
  case writeAbort =>
    exact (writeDp_abort_sends hf hk v).costs ht hes
      (costs_jtagEvents_changed (costs_plainScan ..) hir) (by rw [hacc]; rfl) (by omega)

end Sys2Proof.Machine
